-- ==== Sys2Proof/Word.lean ====
section
/-! DEFINITION. The byte, the only word of the block (00_scope.md rule R10): an unsigned 8-bit quantity whose
addition wraps modulo 256. -/
namespace Sys2Proof

/-- A byte, 0 to 255; bit 7 is the most significant (R10). -/
abbrev Byte := BitVec 8

end Sys2Proof
end

