-- ==== Sys2Proof/Syntax.lean ====
section
/-! DEFINITION. The value types of the source's data model (10_state.md rules R13 to R16, 42_codec_decode.md rule R94)
and the operations of the block, one constructor of `Instr` per row of spec/opcode_table.json, in the table's order. -/
namespace Sys2Proof

/-- An address: exactly four bytes, in frame order (R13); never converted to a number inside the block (R38). -/
structure Addr where
  b0 : Byte
  b1 : Byte
  b2 : Byte
  b3 : Byte
deriving DecidableEq, Repr, Inhabited

/-- A command code (R14): the five table variants and the catch-all that carries its two bytes verbatim. -/
inductive Code where
  | readInput
  | setOutput
  | setAddress
  | readAddress
  | readFirmwareVersion
  | unknown (hi lo : Byte)
deriving DecidableEq, Repr, Inhabited

/-- A Command record (R15). The payload is held as the list of its `data_len` meaningful bytes, the form
93_implementation_defined.md U5 recommends: bytes beyond `data_len` are zero by R17 and are not stored. -/
structure Command where
  dst : Addr
  src : Addr
  code : Code
  payload : List Byte
deriving DecidableEq, Repr, Inhabited

/-- The response-shape tag (R16). -/
inductive Shape where
  | usual
  | cpuID
  | legacyCipher
deriving DecidableEq, Repr, Inhabited

/-- A Response record (R16); the payload is held as in `Command`. -/
structure Response where
  dst : Addr
  src : Addr
  error : Bool
  shape : Shape
  payload : List Byte
deriving DecidableEq, Repr, Inhabited

/-- Which decoder `DecodeReason` speaks of (R94). -/
inductive FrameKind where
  | cmd
  | rsp
deriving DecidableEq, Repr, Inhabited

/-- The first failing check of a decoder (R94). -/
inductive Reason where
  | undersized
  | badPreamble
  | badLength
  | truncated
  | badChecksum
deriving DecidableEq, Repr, Inhabited

/-- The operations of the block: one constructor per row of spec/opcode_table.json, in its order. -/
inductive Instr where
  /-- The transaction `Execute(ReadInput, dst, pay)` (R79). -/
  | readInput (dst : Addr) (pay : List Byte)
  /-- The transaction `Execute(SetOutput, dst, pay)` (R80). -/
  | setOutput (dst : Addr) (pay : List Byte)
  /-- The transaction `Execute(SetAddress, dst, pay)` (R81). -/
  | setAddress (dst : Addr) (pay : List Byte)
  /-- The transaction `Execute(ReadAddress, dst, pay)` (R82). -/
  | readAddress (dst : Addr) (pay : List Byte)
  /-- The transaction `Execute(ReadFirmwareVersion, dst, pay)` (R83). -/
  | readFirmwareVersion (dst : Addr) (pay : List Byte)
  /-- The transaction `Execute(Unknown(hi, lo), dst, pay)` (R84). -/
  | unknown (hi lo : Byte) (dst : Addr) (pay : List Byte)
  /-- Bytes of format `CMD` at the codec (R56): decoded by R92, the record encoded back by R86. -/
  | frameCmd (buf : List Byte)
  /-- Bytes of format `RSP_USUAL` at the codec (R57): decoded by R93, the record encoded back by R88. -/
  | frameRspUsual (buf : List Byte)
  /-- A frame of the encode-only format `RSP_CPUID` (R58, R89). -/
  | frameRspCpuid (dst src : Addr)
  /-- A frame of the encode-only format `RSP_LEGACY` (R59, R90). -/
  | frameRspLegacy
  /-- R73. -/
  | checksum (b : List Byte)
  /-- R74. -/
  | codeFromBytes (hi lo : Byte)
  /-- R75. -/
  | codeCanonical (c : Code)
  /-- R76. -/
  | codeToBytes (c : Code)
  /-- R77. -/
  | codeValue16 (c : Code)
  /-- R78. -/
  | expectedResponseLen (c : Code)
  /-- R86. -/
  | encodeCommand (c : Command)
  /-- R87. -/
  | encodeResponse (r : Response)
  /-- R88. -/
  | encodeUsual (r : Response)
  /-- R89. -/
  | encodeCpuID (r : Response)
  /-- R90. -/
  | encodeLegacyCipher (r : Response)
  /-- R92. -/
  | decodeCommand (buf : List Byte)
  /-- R93. -/
  | decodeResponse (buf : List Byte)
  /-- R94. -/
  | decodeReason (kind : FrameKind) (buf : List Byte)
  /-- The engine's whole transaction (R99). -/
  | execute (code : Code) (dst : Addr) (pay : List Byte)
  /-- Host step (R100, R101). -/
  | request (code : Code) (dst : Addr) (pay : List Byte)
  /-- Engine step (R102, R103). -/
  | settleDone
  /-- Engine step (R104). -/
  | write
  /-- Engine step (R105, R106). -/
  | poll
  /-- Engine step (R107, R108). -/
  | read
  /-- Host step (R109). -/
  | ack
  /-- The time step, one millisecond (R110). -/
  | tick
  /-- Link primitive (R39). -/
  | linkFlush
  /-- Link primitive (R40). -/
  | linkWrite (bytes : List Byte)
  /-- Link primitive (R41). -/
  | linkAvail
  /-- Link primitive (R42). -/
  | linkRead (n : Nat)
  /-- Environment step (R43). -/
  | envDeliver (b : Byte)
  /-- Environment step (R43). -/
  | envDrain
  /-- Host step (R149). -/
  | connect
  /-- Host step (R149). -/
  | disconnect
  /-- The host program over one device address (R126). -/
  | acceptanceTest (a : Addr)
deriving DecidableEq, Repr, Inhabited

end Sys2Proof
end

