-- ==== Sys2Proof/Config.lean ====
section
/-! DEFINITION. What is fixed for one machine and what the spec leaves free: the named parameters of 00_scope.md rule R9
(the configuration record of 10_state.md rule R29, no part of State), and the environment's free choices (R12's draws).
Every function of the model that depends on a parameter takes `Params` as an argument (R9, D30); `Config.params` is the
value `exec` and `step` run with. -/
namespace Sys2Proof

/-- How the Response decoder reports byte 12 (R93, D1). -/
inductive ErrFlagPolicy where
  | alwaysFalse
  | faithful
deriving DecidableEq, Repr, Inhabited

/-- The environment's answer to one link primitive (R39 to R42, R12): whether it succeeds, and the number it draws
(bytes handed over by a failing write, bytes returned by a read). -/
structure Draw where
  ok : Bool
  count : Nat
deriving DecidableEq, Repr, Inhabited

/-- What the environment does between two steps of a blocking transaction (R43): the bytes that arrive from the line,
and how many bytes leave on it. -/
structure EnvTurn where
  deliver : List Byte
  drain : Nat
deriving DecidableEq, Repr, Inhabited

/-- The settings of the serial line at open time (R54); no rule of the block reads them. -/
structure LineSettings where
  baud : Nat
  dataBits : Nat
  stopBits : Nat
  parity : Bool
deriving DecidableEq, Repr

/-- The parameters a model takes as arguments: the timing values and the open ones (R9, R29, D30). -/
structure Params where
  /-- `T_SETTLE_MS`. -/
  tSettle : Nat
  /-- `T_POLL_MS`. -/
  tPoll : Nat
  /-- `T_TIMEOUT_MS`. -/
  tTimeout : Nat
  /-- `T_RELAY_MS`, the sequencer's delay (R122). -/
  tRelay : Nat
  /-- `ERR_FLAG_POLICY` (D1). -/
  errFlagPolicy : ErrFlagPolicy
  /-- Bytes 1 to 20 of `LEGACY_CIPHER_BODY`; byte 0 is 0x02 (R59, D5). -/
  legacyTail : Vector Byte 20
  /-- `PAY_SET_OUTPUT(i, on)` (R118, D23). -/
  paySetOutput : Nat → Bool → List Byte
  /-- `PAY_SET_ADDRESS(a)` (R118, D23). -/
  paySetAddress : Addr → List Byte
  /-- `LINK_READ_TIMEOUT` (R9, U11); no rule reads it. -/
  linkReadTimeout : Nat

/-- The largest `data_len` the Command encoder accepts, `CMD_DATA_MAX` (R9). -/
def Config.cmdDataMax : Nat := 240
/-- The largest `data_len` the Usual encoder accepts, `RSP_DATA_MAX` (R9). -/
def Config.rspDataMax : Nat := 241
/-- `PAYLOAD_CAP` (R9). -/
def Config.payloadCap : Nat := 255
/-- `CMD_OVERHEAD` (R9). -/
def Config.cmdOverhead : Nat := 15
/-- `RSP_OVERHEAD` (R9). -/
def Config.rspOverhead : Nat := 14
/-- `CPUID_LEN` (R9). -/
def Config.cpuidLen : Nat := 18
/-- `LEGACY_LEN` (R9). -/
def Config.legacyLen : Nat := 22
/-- The capacity of `RXBUF` (R20). -/
def Config.rxCap : Nat := 18
/-- `PREAMBLE` (R9). -/
def Config.preamble : Byte := 0x02
/-- `HDR1` (R9). -/
def Config.hdr1 : Byte := 0x01
/-- `HDR3` (R9). -/
def Config.hdr3 : Byte := 0x00
/-- `STATION_ADDR` (R9): the source address the engine puts in every Command. -/
def Config.stationAddr : Addr := ⟨0x00, 0x00, 0x00, 0x00⟩
/-- `ADDR_BYTES` (R9): the bytes of an address. -/
def Config.addrBytes : Nat := 4
/-- `CODE_READ_INPUT` (R9). -/
def Config.codeReadInput : BitVec 16 := 0x0101
/-- `CODE_SET_OUTPUT` (R9). -/
def Config.codeSetOutput : BitVec 16 := 0xFF01
/-- `CODE_SET_ADDRESS` (R9). -/
def Config.codeSetAddress : BitVec 16 := 0xFF03
/-- `CODE_READ_ADDRESS` (R9). -/
def Config.codeReadAddress : BitVec 16 := 0xFF04
/-- `CODE_READ_FIRMWARE_VERSION` (R9). -/
def Config.codeReadFirmwareVersion : BitVec 16 := 0x400A
/-- `CODE_SENTINEL` (R9). -/
def Config.codeSentinel : BitVec 16 := 0xFFFF
/-- `TICK_MS` (R9, D9): the time one `Tick` adds to `NOW` and to a running timer. -/
def Config.tickMs : Nat := 1
/-- `T_PORTLIST_MS` (R9): the port-enumeration refresh, out of scope (R8); recorded, read by no rule. -/
def Config.tPortlist : Nat := 500
/-- `LINE_BAUD`, `LINE_DATA_BITS`, `LINE_STOP_BITS`, `LINE_PARITY` (R9, R54); recorded, read by no rule. -/
def Config.lineSettings : LineSettings := { baud := 9600, dataBits := 8, stopBits := 1, parity := false }

/-- OPEN (R9, D1): either policy. -/
opaque Config.errFlagPolicy : ErrFlagPolicy
/-- OPEN (R9, D5): bytes 1 to 20 of the `LegacyCipher` frame, absent from the source. -/
opaque Config.legacyTail : Vector Byte 20
/-- OPEN (R9, D23): the host program's `SetOutput` payloads. -/
opaque Config.paySetOutput : Nat → Bool → List Byte
/-- OPEN (R9, D23): the host program's `SetAddress` payload. -/
opaque Config.paySetAddress : Addr → List Byte
/-- OPEN (R9, U11): `LINK_READ_TIMEOUT`; no rule reads it. -/
opaque Config.linkReadTimeout : Nat

/-- Free (R12, R40 to R42): the environment's answer to a link primitive, when State lists none (log
entry 5). -/
opaque Config.freeDraw : Nat → Draw
/-- Free (R43, D20): what the environment does between two steps of a transaction, when State lists nothing
(log entry 5). -/
opaque Config.freeTurn : Nat → EnvTurn
/-- Free (R88): the frame `EncodeUsual` gives for a record of another shape, for which the spec states none (log
entry 21). -/
opaque Config.freeUsualFrame : Response → List Byte
/-- Free (R33, D17): the bytes `RXQ` holds at reset (log entry 2). -/
opaque Config.resetRxq : List Byte
/-- Free (R33, D17): the bytes `TXQ` holds at reset (log entry 2). -/
opaque Config.resetTxq : List Byte

/-- The parameters of the machine: the timing values at the source's (R9, D30), the open ones left open
(log entries 10 and 11). -/
def Config.params : Params where
  tSettle := 20
  tPoll := 10
  tTimeout := 200
  tRelay := 100
  errFlagPolicy := Config.errFlagPolicy
  legacyTail := Config.legacyTail
  paySetOutput := Config.paySetOutput
  paySetAddress := Config.paySetAddress
  linkReadTimeout := Config.linkReadTimeout

end Sys2Proof
end

