-- ==== Sys2Proof/Machine/Operands.lean ====
section
/-! DEFINITION. Operand forms: byte strings and their slices (R10), byte order (R38), buffers (R11), addresses (R61),
the checksum (R73), the code conversions (R74 to R77) and the expected reply length (R78). All are pure. -/
namespace Sys2Proof.Machine

/-- `b[i:j)` (R10). -/
def slice (b : List Byte) (i j : Nat) : List Byte := (b.take j).drop i

/-- `b[i]` (R10); only used at an index below `len(b)`, or where a zero fill is meant (R17). -/
def byteAt (b : List Byte) (i : Nat) : Byte := b.getD i 0

/-- `zeros(n)` (R10). -/
def zeros (n : Nat) : List Byte := List.replicate n 0

/-- `be16(hi, lo) = hi * 256 + lo` (R10, R38). -/
def be16 (hi lo : Byte) : Nat := hi.toNat * 256 + lo.toNat

/-- `hi8(v) = v[15:8]` (R10). -/
def hi8 (v : BitVec 16) : Byte := v.extractLsb' 8 8

/-- `lo8(v) = v[7:0]` (R10). -/
def lo8 (v : BitVec 16) : Byte := v.extractLsb' 0 8

/-- `be32(a)`: the serial number an address encodes (R10, R38); the host's conversion, used by no rule of the block. -/
def be32 (a : Addr) : Nat := a.b0.toNat * 2 ^ 24 + a.b1.toNat * 2 ^ 16 + a.b2.toNat * 2 ^ 8 + a.b3.toNat

/-- The four bytes of an address in frame order (R61). -/
def addrBytes (a : Addr) : List Byte := [a.b0, a.b1, a.b2, a.b3]

/-- The address whose byte `i` stands at offset `off + i` (R61). -/
def addrAt (b : List Byte) (off : Nat) : Addr :=
  ⟨byteAt b off, byteAt b (off + 1), byteAt b (off + 2), byteAt b (off + 3)⟩

/-- `MemWrite(buf, 0, len(v), v)` (R11): the first `len(v)` bytes are replaced, the others stay (log entry 16). -/
def overwrite (buf v : List Byte) : List Byte := v ++ buf.drop v.length

/-- A payload in a buffer of `PAYLOAD_CAP` bytes: `pay ++ zeros(255 - len(pay))` (R17, R100). -/
def payloadBuffer (pay : List Byte) : List Byte := pay ++ zeros (Config.payloadCap - pay.length)

/-- `Checksum(b)`: the sum of the bytes modulo 256 (R73). -/
def checksum (b : List Byte) : Byte := b.foldl (fun s x => s + x) 0

/-- `CodeFromBytes(hi, lo)` (R74). -/
def codeFromBytes (hi lo : Byte) : Code :=
  if be16 hi lo = Config.codeReadInput.toNat then .readInput
  else if be16 hi lo = Config.codeSetOutput.toNat then .setOutput
  else if be16 hi lo = Config.codeSetAddress.toNat then .setAddress
  else if be16 hi lo = Config.codeReadAddress.toNat then .readAddress
  else if be16 hi lo = Config.codeReadFirmwareVersion.toNat then .readFirmwareVersion
  else .unknown hi lo

/-- The values of the code table (R9, R66), in its order. -/
def codeTable : List (BitVec 16) :=
  [Config.codeReadInput, Config.codeSetOutput, Config.codeSetAddress, Config.codeReadAddress,
    Config.codeReadFirmwareVersion]

/-- `CodeCanonical(c)` (R75): a table variant, or an `Unknown` whose value is not in the table. -/
def codeCanonical : Code → Bool
  | .unknown hi lo => !((codeTable.map BitVec.toNat).contains (be16 hi lo))
  | .readInput | .setOutput | .setAddress | .readAddress | .readFirmwareVersion => true

/-- The two bytes of a table value, in frame order (R38). -/
def codeBytes (v : BitVec 16) : Byte × Byte := (hi8 v, lo8 v)

/-- `CodeToBytes(c)` (R76): the conversion the encoders use; an `Unknown` keeps its bytes. -/
def codeToBytes : Code → Byte × Byte
  | .readInput => codeBytes Config.codeReadInput
  | .setOutput => codeBytes Config.codeSetOutput
  | .setAddress => codeBytes Config.codeSetAddress
  | .readAddress => codeBytes Config.codeReadAddress
  | .readFirmwareVersion => codeBytes Config.codeReadFirmwareVersion
  | .unknown hi lo => (hi, lo)

/-- `CodeValue16(c)` (R77): the sentinel for every `Unknown`. -/
def codeValue16 : Code → BitVec 16
  | .readInput => Config.codeReadInput
  | .setOutput => Config.codeSetOutput
  | .setAddress => Config.codeSetAddress
  | .readAddress => Config.codeReadAddress
  | .readFirmwareVersion => Config.codeReadFirmwareVersion
  | .unknown _ _ => Config.codeSentinel

/-- `ExpectedResponseLen(c)` (R78): the match is on the variant. -/
def expectedResponseLen : Code → Nat
  | .setAddress => 15
  | .readInput => 15
  | .setOutput => 14
  | .readFirmwareVersion => 18
  | .readAddress => 18
  | .unknown _ _ => 0

end Sys2Proof.Machine
end

