-- ==== Sys2Proof/Machine/Codec.lean ====
section
/-! DEFINITION. The frame codec: the encoders (R86 to R90), the decoders (R92, R93) and the diagnostic reason (R94). All
are pure functions of their operands and the parameters (R2, R98); `none` is a refused operand of an encoder (R86, R88)
or the decoders' "no frame" (R134). -/
namespace Sys2Proof.Machine

/-- A frame: its bytes before the checksum, and the checksum over all of them (R65, R73). -/
def sealFrame (f : List Byte) : List Byte := f ++ [checksum f]

/-- The 4-byte header with the total length `len` in byte 2 (R55, R60). -/
def header (len : Nat) : List Byte := [Config.preamble, Config.hdr1, BitVec.ofNat 8 len, Config.hdr3]

/-- `EncodeCommand(c)` (R86, format R56); refused above 240 payload bytes. -/
def encodeCommand (c : Command) : Option (List Byte) :=
  if Config.cmdDataMax < c.payload.length then none
  else some (sealFrame (header (Config.cmdOverhead + c.payload.length) ++ addrBytes c.dst ++ addrBytes c.src
    ++ [(codeToBytes c.code).1, (codeToBytes c.code).2] ++ c.payload))

/-- The error-flag byte an encoder writes (R63). -/
def errorByte (e : Bool) : Byte := if e then 0x01 else 0x00

/-- The error flag the Response decoder reports for byte 12 (R63, R93): under `Faithful` any non-zero value is `true`
(D2), under `AlwaysFalse` none is. -/
def errorFlag (p : Params) (b : Byte) : Bool := b != 0x00 && p.errFlagPolicy == .faithful

/-- `EncodeUsual(r)` (R88, format R57); refused above 241 payload bytes. -/
def encodeUsual (r : Response) : Option (List Byte) :=
  if Config.rspDataMax < r.payload.length then none
  else some (sealFrame (header (Config.rspOverhead + r.payload.length) ++ addrBytes r.dst ++ addrBytes r.src
    ++ [errorByte r.error] ++ r.payload))

/-- The frame of format `RSP_CPUID` (R58, D4). -/
def cpuidFrame (dst src : Addr) : List Byte :=
  sealFrame (header Config.cpuidLen ++ addrBytes dst ++ addrBytes src ++ zeros 5)

/-- `EncodeCpuID(r)` (R89): only `dst` and `src` are read. -/
def encodeCpuID (r : Response) : List Byte := cpuidFrame r.dst r.src

/-- `LEGACY_CIPHER_BODY` (R59): 21 bytes, byte 0 is the preamble. -/
def legacyBody (p : Params) : List Byte := Config.preamble :: p.legacyTail.toList

/-- `EncodeLegacyCipher(r)` (R90): no field of the record is read. -/
def encodeLegacyCipher (p : Params) : List Byte := sealFrame (legacyBody p)

/-- `EncodeResponse(r)` (R87): dispatch on the shape tag. -/
def encodeResponse (p : Params) (r : Response) : Option (List Byte) :=
  match r.shape with
  | .usual => encodeUsual r
  | .cpuID => some (encodeCpuID r)
  | .legacyCipher => some (encodeLegacyCipher p)

/-- The declared length `L` of the frame at the start of `buf`, when the five checks both decoders make hold (R92, R93);
`min` is the format's minimum. Bytes 1 and 3 are not examined (R68). -/
def frameLength (min : Nat) (buf : List Byte) : Option Nat :=
  if buf.length < min then none
  else if byteAt buf 0 ≠ Config.preamble then none
  else if (byteAt buf 2).toNat < min then none
  else if buf.length < (byteAt buf 2).toNat then none
  else if checksum (slice buf 0 ((byteAt buf 2).toNat - 1)) ≠ byteAt buf ((byteAt buf 2).toNat - 1) then none
  else some (byteAt buf 2).toNat

/-- `DecodeCommand(buf)` (R92). -/
def decodeCommand (buf : List Byte) : Option Command :=
  (frameLength Config.cmdOverhead buf).map fun len =>
    { dst := addrAt buf 4
      src := addrAt buf (4 + Config.addrBytes)
      code := codeFromBytes (byteAt buf 12) (byteAt buf 13)
      payload := slice buf 14 (len - 1) }

/-- `DecodeResponse(buf)` (R93); the shape is always `Usual` (R70). -/
def decodeResponse (p : Params) (buf : List Byte) : Option Response :=
  (frameLength Config.rspOverhead buf).map fun len =>
    { dst := addrAt buf 4
      src := addrAt buf (4 + Config.addrBytes)
      error := errorFlag p (byteAt buf 12)
      shape := .usual
      payload := slice buf 13 (len - 1) }

/-- The smallest frame of a kind (R94). -/
def kindMin : FrameKind → Nat
  | .cmd => Config.cmdOverhead
  | .rsp => Config.rspOverhead

/-- `DecodeReason(kind, buf)` (R94): the first check that fails, in the source's order; `none` when none does. -/
def decodeReason (kind : FrameKind) (buf : List Byte) : Option Reason :=
  if buf.length < kindMin kind then some .undersized
  else if byteAt buf 0 ≠ Config.preamble then some .badPreamble
  else if (byteAt buf 2).toNat < kindMin kind then some .badLength
  else if buf.length < (byteAt buf 2).toNat then some .truncated
  else if checksum (slice buf 0 ((byteAt buf 2).toNat - 1)) ≠ byteAt buf ((byteAt buf 2).toNat - 1) then
    some .badChecksum
  else none

end Sys2Proof.Machine
end

