-- ==== Sys2Proof/WellFormed.lean ====
section
/-! DEFINITION. Well-formed operations: the operand conditions the spec puts on the form of an operation, apart from
those it makes a refusal of the operation itself (R86, R88, R100). -/
namespace Sys2Proof

/-- A record's payload fits the in-memory buffer of `PAYLOAD_CAP` bytes (R15 to R17). -/
def payloadFits (pay : List Byte) : Bool := pay.length ≤ Config.payloadCap

/-- A payload a Command frame can carry (R60). -/
def commandPayload (pay : List Byte) : Bool := pay.length ≤ Config.cmdDataMax

/-- The operand conditions of each operation. -/
def Instr.wf : Instr → Bool
  | .readInput _ pay => commandPayload pay
  | .setOutput _ pay => commandPayload pay
  | .setAddress _ pay => commandPayload pay
  | .readAddress _ pay => commandPayload pay
  | .readFirmwareVersion _ pay => commandPayload pay
  | .unknown hi lo _ pay => Machine.codeCanonical (.unknown hi lo) && commandPayload pay
  | .frameCmd _ => true
  | .frameRspUsual _ => true
  | .frameRspCpuid _ _ => true
  | .frameRspLegacy => true
  | .checksum _ => true
  | .codeFromBytes _ _ => true
  | .codeCanonical _ => true
  | .codeToBytes _ => true
  | .codeValue16 _ => true
  | .expectedResponseLen _ => true
  | .encodeCommand c => payloadFits c.payload
  | .encodeResponse r => payloadFits r.payload
  | .encodeUsual r => payloadFits r.payload
  | .encodeCpuID r => payloadFits r.payload
  | .encodeLegacyCipher r => payloadFits r.payload
  | .decodeCommand _ => true
  | .decodeResponse _ => true
  | .decodeReason _ _ => true
  | .execute _ _ _ => true
  | .request _ _ _ => true
  | .settleDone => true
  | .write => true
  | .poll => true
  | .read => true
  | .ack => true
  | .tick => true
  | .linkFlush => true
  | .linkWrite _ => true
  | .linkAvail => true
  | .linkRead _ => true
  | .envDeliver _ => true
  | .envDrain => true
  | .connect => true
  | .disconnect => true
  | .acceptanceTest _ => true

end Sys2Proof
end

