-- ==== Sys2Proof/Decode.lean ====
section
/-! DEFINITION. Decoding the plan of operations (State's `agenda`, bytes) and encoding it. A byte 0x02, the preamble,
begins a frame in the spec's own layout (R55 to R59); every other operation has no wire encoding in the spec
("no wire encoding: match/mask are empty", spec/opcode_table.json) and is written as a selector byte of the model's own
followed by its operands (DESIGN CHOICE, log entry 3). -/
namespace Sys2Proof

open Machine

/-- Why a plan of operations is rejected. -/
inductive DecodeReject where
  /-- No byte is left. -/
  | empty
  /-- The first byte selects no operation. -/
  | unassigned (b : Byte)
  /-- The operands do not parse. -/
  | badOperand
  /-- The operation fails a check of `Instr.wf`. -/
  | illFormed
deriving DecidableEq, Repr

-- The selector bytes (log entry 3), one per operation without a wire encoding of its own.

/-- The first byte of an operation's encoding: the preamble for a Command frame, else the model's selector. -/
def leadByte : Instr → Byte
  | .readInput _ _ => 0x02
  | .setOutput _ _ => 0x02
  | .setAddress _ _ => 0x02
  | .readAddress _ _ => 0x02
  | .readFirmwareVersion _ _ => 0x02
  | .unknown _ _ _ _ => 0x02
  | .frameCmd _ => 0x10
  | .frameRspUsual _ => 0x11
  | .frameRspCpuid _ _ => 0x12
  | .frameRspLegacy => 0x13
  | .checksum _ => 0x20
  | .codeFromBytes _ _ => 0x21
  | .codeCanonical _ => 0x22
  | .codeToBytes _ => 0x23
  | .codeValue16 _ => 0x24
  | .expectedResponseLen _ => 0x25
  | .encodeCommand _ => 0x30
  | .encodeResponse _ => 0x31
  | .encodeUsual _ => 0x32
  | .encodeCpuID _ => 0x33
  | .encodeLegacyCipher _ => 0x34
  | .decodeCommand _ => 0x38
  | .decodeResponse _ => 0x39
  | .decodeReason _ _ => 0x3A
  | .execute _ _ _ => 0x40
  | .request _ _ _ => 0x41
  | .settleDone => 0x42
  | .write => 0x43
  | .poll => 0x44
  | .read => 0x45
  | .ack => 0x46
  | .tick => 0x47
  | .linkFlush => 0x50
  | .linkWrite _ => 0x51
  | .linkAvail => 0x52
  | .linkRead _ => 0x53
  | .envDeliver _ => 0x54
  | .envDrain => 0x55
  | .connect => 0x60
  | .disconnect => 0x61
  | .acceptanceTest _ => 0x70

-- Operands: each reader takes its operand off the front and gives the rest; each writer is its inverse.

/-- One byte. -/
def takeByte : List Byte → Option (Byte × List Byte)
  | [] => none
  | b :: rest => some (b, rest)

/-- A byte string of any length: 0x01 before each byte, 0x00 at the end. -/
def takeBytes : List Byte → Option (List Byte × List Byte)
  | [] => none
  | m :: rest =>
    if m = 0x00 then some ([], rest)
    else if m = 0x01 then
      match rest with
      | [] => none
      | b :: rest' => (takeBytes rest').map fun x => (b :: x.1, x.2)
    else none

/-- The writer of `takeBytes`. -/
def putBytes : List Byte → List Byte
  | [] => [0x00]
  | b :: bs => 0x01 :: b :: putBytes bs

/-- A natural number: as many 0x01, then 0x00. -/
def takeNat : List Byte → Option (Nat × List Byte)
  | [] => none
  | m :: rest =>
    if m = 0x00 then some (0, rest)
    else if m = 0x01 then (takeNat rest).map fun x => (x.1 + 1, x.2)
    else none

/-- The writer of `takeNat`. -/
def putNat : Nat → List Byte
  | 0 => [0x00]
  | n + 1 => 0x01 :: putNat n

/-- Four bytes in frame order. -/
def takeAddr : List Byte → Option (Addr × List Byte)
  | b0 :: b1 :: b2 :: b3 :: rest => some (⟨b0, b1, b2, b3⟩, rest)
  | _ => none

/-- A truth value: 0x00 or 0x01. -/
def takeBool : List Byte → Option (Bool × List Byte)
  | [] => none
  | b :: rest => if b = 0x00 then some (false, rest) else if b = 0x01 then some (true, rest) else none

/-- The writer of `takeBool`. -/
def putBool (b : Bool) : Byte := if b then 0x01 else 0x00

/-- A code: the variant's number, and the two bytes of an `Unknown` (which need not be canonical). -/
def takeCode : List Byte → Option (Code × List Byte)
  | [] => none
  | t :: rest =>
    if t = 0x00 then some (.readInput, rest)
    else if t = 0x01 then some (.setOutput, rest)
    else if t = 0x02 then some (.setAddress, rest)
    else if t = 0x03 then some (.readAddress, rest)
    else if t = 0x04 then some (.readFirmwareVersion, rest)
    else if t = 0x05 then
      match rest with
      | hi :: lo :: rest' => some (.unknown hi lo, rest')
      | _ => none
    else none

/-- The writer of `takeCode`. -/
def putCode : Code → List Byte
  | .readInput => [0x00]
  | .setOutput => [0x01]
  | .setAddress => [0x02]
  | .readAddress => [0x03]
  | .readFirmwareVersion => [0x04]
  | .unknown hi lo => [0x05, hi, lo]

/-- A shape tag. -/
def takeShape : List Byte → Option (Shape × List Byte)
  | [] => none
  | t :: rest =>
    if t = 0x00 then some (.usual, rest)
    else if t = 0x01 then some (.cpuID, rest)
    else if t = 0x02 then some (.legacyCipher, rest)
    else none

/-- The writer of `takeShape`. -/
def putShape : Shape → Byte
  | .usual => 0x00
  | .cpuID => 0x01
  | .legacyCipher => 0x02

/-- A decoder kind. -/
def takeKind : List Byte → Option (FrameKind × List Byte)
  | [] => none
  | t :: rest => if t = 0x00 then some (.cmd, rest) else if t = 0x01 then some (.rsp, rest) else none

/-- The writer of `takeKind`. -/
def putKind : FrameKind → Byte
  | .cmd => 0x00
  | .rsp => 0x01

/-- A Command record. -/
def takeCommand (l : List Byte) : Option (Command × List Byte) :=
  (takeAddr l).bind fun d => (takeAddr d.2).bind fun s => (takeCode s.2).bind fun c =>
    (takeBytes c.2).map fun y => (⟨d.1, s.1, c.1, y.1⟩, y.2)

/-- The writer of `takeCommand`. -/
def putCommand (c : Command) : List Byte :=
  addrBytes c.dst ++ (addrBytes c.src ++ (putCode c.code ++ putBytes c.payload))

/-- A Response record. -/
def takeResponse (l : List Byte) : Option (Response × List Byte) :=
  (takeAddr l).bind fun d => (takeAddr d.2).bind fun s => (takeBool s.2).bind fun e =>
    (takeShape e.2).bind fun h => (takeBytes h.2).map fun y => (⟨d.1, s.1, e.1, h.1, y.1⟩, y.2)

/-- The writer of `takeResponse`. -/
def putResponse (r : Response) : List Byte :=
  addrBytes r.dst ++ (addrBytes r.src ++ (putBool r.error :: putShape r.shape :: putBytes r.payload))

/-- The operands of a transaction: code, destination, payload (R99). -/
def takeCall (l : List Byte) : Option ((Code × Addr × List Byte) × List Byte) :=
  (takeCode l).bind fun c => (takeAddr c.2).bind fun d =>
    (takeBytes d.2).map fun y => ((c.1, d.1, y.1), y.2)

/-- The writer of `takeCall`. -/
def putCall (code : Code) (dst : Addr) (pay : List Byte) : List Byte :=
  putCode code ++ (addrBytes dst ++ putBytes pay)

/-- The selector bytes that are assigned. -/
def selectors : List Byte :=
  [0x10, 0x11, 0x12, 0x13, 0x20, 0x21, 0x22, 0x23, 0x24, 0x25, 0x30, 0x31, 0x32, 0x33, 0x34, 0x38, 0x39, 0x3A]
  ++ [0x40, 0x41, 0x42, 0x43, 0x44, 0x45, 0x46, 0x47, 0x50, 0x51, 0x52, 0x53, 0x54, 0x55, 0x60, 0x61, 0x70]

/-- The operation of a selector, its operands read from `l`. -/
def decodeSelector (sel : Byte) (l : List Byte) : Option (Instr × List Byte) :=
  match sel.toNat with
  | 0x10 => (takeBytes l).map fun x => (.frameCmd x.1, x.2)
  | 0x11 => (takeBytes l).map fun x => (.frameRspUsual x.1, x.2)
  | 0x12 => (takeAddr l).bind fun x => (takeAddr x.2).map fun y => (.frameRspCpuid x.1 y.1, y.2)
  | 0x13 => some (.frameRspLegacy, l)
  | 0x20 => (takeBytes l).map fun x => (.checksum x.1, x.2)
  | 0x21 => (takeByte l).bind fun x => (takeByte x.2).map fun y => (.codeFromBytes x.1 y.1, y.2)
  | 0x22 => (takeCode l).map fun x => (.codeCanonical x.1, x.2)
  | 0x23 => (takeCode l).map fun x => (.codeToBytes x.1, x.2)
  | 0x24 => (takeCode l).map fun x => (.codeValue16 x.1, x.2)
  | 0x25 => (takeCode l).map fun x => (.expectedResponseLen x.1, x.2)
  | 0x30 => (takeCommand l).map fun x => (.encodeCommand x.1, x.2)
  | 0x31 => (takeResponse l).map fun x => (.encodeResponse x.1, x.2)
  | 0x32 => (takeResponse l).map fun x => (.encodeUsual x.1, x.2)
  | 0x33 => (takeResponse l).map fun x => (.encodeCpuID x.1, x.2)
  | 0x34 => (takeResponse l).map fun x => (.encodeLegacyCipher x.1, x.2)
  | 0x38 => (takeBytes l).map fun x => (.decodeCommand x.1, x.2)
  | 0x39 => (takeBytes l).map fun x => (.decodeResponse x.1, x.2)
  | 0x3A => (takeKind l).bind fun x => (takeBytes x.2).map fun y => (.decodeReason x.1 y.1, y.2)
  | 0x40 => (takeCall l).map fun x => (.execute x.1.1 x.1.2.1 x.1.2.2, x.2)
  | 0x41 => (takeCall l).map fun x => (.request x.1.1 x.1.2.1 x.1.2.2, x.2)
  | 0x42 => some (.settleDone, l)
  | 0x43 => some (.write, l)
  | 0x44 => some (.poll, l)
  | 0x45 => some (.read, l)
  | 0x46 => some (.ack, l)
  | 0x47 => some (.tick, l)
  | 0x50 => some (.linkFlush, l)
  | 0x51 => (takeBytes l).map fun x => (.linkWrite x.1, x.2)
  | 0x52 => some (.linkAvail, l)
  | 0x53 => (takeNat l).map fun x => (.linkRead x.1, x.2)
  | 0x54 => (takeByte l).map fun x => (.envDeliver x.1, x.2)
  | 0x55 => some (.envDrain, l)
  | 0x60 => some (.connect, l)
  | 0x61 => some (.disconnect, l)
  | 0x70 => (takeAddr l).map fun x => (.acceptanceTest x.1, x.2)
  | _ => none

/-- The command row of a Command's code, with its operands (R66). -/
def commandInstr (c : Command) : Instr :=
  match c.code with
  | .readInput => .readInput c.dst c.payload
  | .setOutput => .setOutput c.dst c.payload
  | .setAddress => .setAddress c.dst c.payload
  | .readAddress => .readAddress c.dst c.payload
  | .readFirmwareVersion => .readFirmwareVersion c.dst c.payload
  | .unknown hi lo => .unknown hi lo c.dst c.payload

/-- The command a frame of the station's is: a frame `DecodeCommand` accepts, with the header the encoders write and
the station's address as its source (R86, R92, R103). -/
def stationCommand (buf : List Byte) : Option Instr :=
  (decodeCommand buf).bind fun c => if c.src = Config.stationAddr then some (commandInstr c) else none

/-- A frame in the spec's own layout at the front of `buf`, whose byte 0 is the preamble: the rows of
spec/opcode_table.json by their match and mask, the most specific first (log entry 4). A command row is a valid frame of
the station's; then the fixed header of `RSP_CPUID`; then the common header of `CMD` and `RSP_USUAL`, which the length
14 tells apart; then `RSP_LEGACY`, of which only byte 0 is fixed. Of a frame that is not there in full, the bytes that
are there go to the decoder of `CMD`, which rejects them as data (R92). -/
def decodeWire (buf : List Byte) : Instr × List Byte :=
  if 4 ≤ buf.length ∧ byteAt buf 1 = Config.hdr1 ∧ byteAt buf 3 = Config.hdr3 then
    match stationCommand (buf.take (byteAt buf 2).toNat) with
    | some i => (i, buf.drop (byteAt buf 2).toNat)
    | none =>
      if buf.length < max 4 (byteAt buf 2).toNat then (.frameCmd buf, [])
      else if (byteAt buf 2).toNat = Config.cpuidLen then
        (.frameRspCpuid (addrAt buf 4) (addrAt buf (4 + Config.addrBytes)), buf.drop (byteAt buf 2).toNat)
      else if (byteAt buf 2).toNat = Config.rspOverhead then
        (.frameRspUsual (buf.take (byteAt buf 2).toNat), buf.drop (byteAt buf 2).toNat)
      else (.frameCmd (buf.take (max 4 (byteAt buf 2).toNat)), buf.drop (max 4 (byteAt buf 2).toNat))
  else if buf.length < Config.legacyLen then (.frameCmd buf, [])
  else (.frameRspLegacy, buf.drop Config.legacyLen)

/-- The first operation of a plan and the rest of the plan; total, rejecting by name. -/
def decode (l : List Byte) : Except DecodeReject (Instr × List Byte) :=
  match l with
  | [] => .error .empty
  | b :: rest =>
    if b = Config.preamble then .ok (decodeWire (b :: rest))
    else if !(selectors.contains b) then .error (.unassigned b)
    else
      match decodeSelector b rest with
      | none => .error .badOperand
      | some x => if x.1.wf then .ok x else .error .illFormed

/-- The frame of a command row: the Command with the station's source address, encoded by R86 (no byte when the payload
does not fit, which `Instr.wf` excludes). -/
def commandWords (code : Code) (dst : Addr) (pay : List Byte) : List Byte :=
  (encodeCommand ⟨dst, Config.stationAddr, code, pay⟩).getD []

/-- The words of an operation. -/
def encode : Instr → List Byte
  | .readInput dst pay => commandWords .readInput dst pay
  | .setOutput dst pay => commandWords .setOutput dst pay
  | .setAddress dst pay => commandWords .setAddress dst pay
  | .readAddress dst pay => commandWords .readAddress dst pay
  | .readFirmwareVersion dst pay => commandWords .readFirmwareVersion dst pay
  | .unknown hi lo dst pay => commandWords (.unknown hi lo) dst pay
  | .frameCmd buf => 0x10 :: putBytes buf
  | .frameRspUsual buf => 0x11 :: putBytes buf
  | .frameRspCpuid dst src => 0x12 :: (addrBytes dst ++ addrBytes src)
  | .frameRspLegacy => [0x13]
  | .checksum b => 0x20 :: putBytes b
  | .codeFromBytes hi lo => [0x21, hi, lo]
  | .codeCanonical c => 0x22 :: putCode c
  | .codeToBytes c => 0x23 :: putCode c
  | .codeValue16 c => 0x24 :: putCode c
  | .expectedResponseLen c => 0x25 :: putCode c
  | .encodeCommand c => 0x30 :: putCommand c
  | .encodeResponse r => 0x31 :: putResponse r
  | .encodeUsual r => 0x32 :: putResponse r
  | .encodeCpuID r => 0x33 :: putResponse r
  | .encodeLegacyCipher r => 0x34 :: putResponse r
  | .decodeCommand buf => 0x38 :: putBytes buf
  | .decodeResponse buf => 0x39 :: putBytes buf
  | .decodeReason kind buf => 0x3A :: putKind kind :: putBytes buf
  | .execute code dst pay => 0x40 :: putCall code dst pay
  | .request code dst pay => 0x41 :: putCall code dst pay
  | .settleDone => [0x42]
  | .write => [0x43]
  | .poll => [0x44]
  | .read => [0x45]
  | .ack => [0x46]
  | .tick => [0x47]
  | .linkFlush => [0x50]
  | .linkWrite bytes => 0x51 :: putBytes bytes
  | .linkAvail => [0x52]
  | .linkRead n => 0x53 :: putNat n
  | .envDeliver b => [0x54, b]
  | .envDrain => [0x55]
  | .connect => [0x60]
  | .disconnect => [0x61]
  | .acceptanceTest a => 0x70 :: addrBytes a

/-- The bytes of a table word of `n` bytes: the table numbers a frame's bits with byte 0 most significant
("frame bytes 0 to 3, byte 0 most significant"), so the row is one big-endian word of `n` bytes. -/
def wordBytes : Nat → Nat → List Byte
  | 0, _ => []
  | n + 1, w => BitVec.ofNat 8 (w >>> (8 * n)) :: wordBytes n w

/-- The bytes a table word stands for, the bits above it zero up to the longest frame. -/
def tableWordBytes (nbits w : Nat) : List Byte := wordBytes (nbits / 8) w ++ zeros 256

/-- The operation the decoder reads from a table word. -/
def decodeTableWord (nbits w : Nat) : Option Instr :=
  match decode (tableWordBytes nbits w) with
  | .ok x => some x.1
  | .error _ => none

end Sys2Proof
end

