-- ==== Sys2Proof/Machine/State.lean ====
section
/-! DEFINITION. The state of the block, its link and time (10_state.md), and the model's own fields that say what moves
next and what the environment chooses. Plain data; the parameters (R29) are no part of it. -/
namespace Sys2Proof.Machine

/-- `PHASE` (R21), the engine's only control state. -/
inductive Phase where
  | idle
  | settle
  | write
  | poll
  | read
  | done
deriving DecidableEq, Repr, Inhabited

/-- `RES_KIND` (R24, R128). -/
inductive ResKind where
  | none
  | ok
  | ioError
  | timeout
  | frameError
  | noConnection
deriving DecidableEq, Repr, Inhabited

/-- The error kinds of a transaction (R19). -/
inductive ErrorKind where
  | ioError
  | timeout
  | frameError (count : Nat)
  | noConnection
deriving DecidableEq, Repr, Inhabited

/-- The result of a transaction (R19). -/
inductive TxResult where
  | ok (r : Response)
  | err (e : ErrorKind)
deriving DecidableEq, Repr, Inhabited

/-- The step of the acceptance test a verification failure names (R123). -/
inductive StepId where
  | initialCheck
  | channel (i : Fin 4)
deriving DecidableEq, Repr, Inhabited

/-- What the acceptance test reports (R121 to R126). -/
inductive Report where
  | success
  | verificationFailure (step : StepId) (expected actual : Byte)
  | engineError (e : ErrorKind)
deriving DecidableEq, Repr, Inhabited

/-- The value an operation returns to its caller (the model's own; the codec itself holds no state, R2). -/
inductive OpValue where
  /-- Nothing has been returned yet. -/
  | nothing
  /-- `Checksum` (R73). -/
  | byte (b : Byte)
  /-- `CodeFromBytes` (R74). -/
  | code (c : Code)
  /-- `CodeCanonical` (R75). -/
  | truth (b : Bool)
  /-- `CodeToBytes` (R76). -/
  | bytePair (hi lo : Byte)
  /-- `CodeValue16` (R77). -/
  | word16 (w : BitVec 16)
  /-- `ExpectedResponseLen` (R78). -/
  | length (n : Nat)
  /-- An encoder's frame (R86 to R90). -/
  | frame (f : List Byte)
  /-- `DecodeCommand` (R92): `none` is "no frame". -/
  | command (c : Option Command)
  /-- `DecodeResponse` (R93): `none` is "no frame". -/
  | response (r : Option Response)
  /-- `DecodeReason` (R94): `none` when no check fails. -/
  | reason (r : Option Reason)
  /-- A buffer of format `CMD`: what R92 decodes, and R86's frame of it. -/
  | cmdFormat (c : Option Command) (f : Option (List Byte))
  /-- A buffer of format `RSP_USUAL`: what R93 decodes, and R88's frame of it. -/
  | rspFormat (r : Option Response) (f : Option (List Byte))
  /-- `LinkWrite` (R40): ok or fail. -/
  | written (ok : Bool)
  /-- `LinkAvail` (R41): `none` is fail. -/
  | available (n : Option Nat)
  /-- `LinkRead` (R42): `none` is fail. -/
  | received (b : Option (List Byte))
  /-- `Execute` (R99). -/
  | result (r : TxResult)
  /-- `AcceptanceTest` (R126). -/
  | report (r : Report)
deriving DecidableEq, Repr, Inhabited

/-- Why the machine stops: a step that is not enabled, for which the spec has no successor state
(93_implementation_defined.md, "stuck"). All are safe: the model stops where the spec gives no step. -/
inductive Fault where
  /-- A request, or a transaction, while `PHASE` is not `IDLE` (R100, R163, U7). Raised by Request, Execute, the six
  command rows and AcceptanceTest. Safe. -/
  | requestOutsideIdle
  /-- `SettleDone` while it is not enabled (R102). Raised by SettleDone. Safe. -/
  | settleDoneNotEnabled
  /-- `Write` while it is not enabled (R104). Raised by Write. Safe. -/
  | writeNotEnabled
  /-- `Poll` while it is not enabled (R105). Raised by Poll. Safe. -/
  | pollNotEnabled
  /-- `Read` while it is not enabled (R107). Raised by Read. Safe. -/
  | readNotEnabled
  /-- `Ack` while `PHASE` is not `DONE` (R109). Raised by Ack. Safe. -/
  | ackNotEnabled
  /-- `Tick` while an engine step is enabled (R110). Raised by Tick. Safe. -/
  | tickNotEnabled
  /-- A transaction that has not reached `DONE` within the bound of R111. Raised by the blocking operations; never
  with a positive `T_POLL_MS` (Laws/Engine.lean). Safe. -/
  | transactionUnfinished
deriving DecidableEq, Repr

/-- Why an operation has no meaning: an operand or a moment outside its domain
(93_implementation_defined.md, "refuse"). All are safe: the model stops where the spec gives no meaning. -/
inductive Refusal where
  /-- An operation rejected by name: none is left. Raised by exec's arms. Safe. -/
  | notModelled (mnemonic : String)
  /-- The plan of operations does not decode. Raised by step. Safe. -/
  | undecodable (why : DecodeReject)
  /-- A Command with more than 240 payload bytes (R86, U6). Raised by EncodeCommand and SettleDone. Safe. -/
  | commandTooLong
  /-- A Usual Response with more than 241 payload bytes (R88, U6). Raised by EncodeUsual and EncodeResponse. Safe. -/
  | responseTooLong
  /-- A request with more than 240 payload bytes (R100, R163, U6). Raised by Request, Execute and the six command
  rows. Safe. -/
  | requestTooLong
  /-- `Connect` while `PHASE` is not `IDLE` (R149, R164, U9). Raised by Connect. Safe. -/
  | connectOutsideIdle
  /-- `Disconnect` while `PHASE` is not `IDLE` (R149, R164, U9). Raised by Disconnect. Safe. -/
  | disconnectOutsideIdle
  /-- A link primitive named by the plan while a transaction is in flight: a second reader or writer on the link
  (R51, R146, U8). Raised by LinkFlush, LinkWrite, LinkAvail and LinkRead. Safe. -/
  | linkInUse
deriving DecidableEq, Repr

/-- The state of the machine. -/
structure State where
  /-- `PHASE` (R21). -/
  phase : Phase
  /-- `REQ_CODE` (R22). -/
  reqCode : Code
  /-- `REQ_DST` (R22). -/
  reqDst : Addr
  /-- `REQ_LEN` (R22). -/
  reqLen : BitVec 8
  /-- `REQ_PAY`, 255 bytes (R22). -/
  reqPay : List Byte
  /-- `EXP_LEN` (R27). -/
  expLen : BitVec 8
  /-- `TMR` (R25). -/
  tmr : Nat
  /-- `ELAPSED` (R25). -/
  elapsed : Nat
  /-- `POLL_TMR` (R25). -/
  pollTmr : Nat
  /-- `TXBUF`, 255 bytes (R26). -/
  txBuf : List Byte
  /-- `TXLEN` (R26). -/
  txLen : BitVec 8
  /-- `RXBUF`, 18 bytes (R26). -/
  rxBuf : List Byte
  /-- `RXCNT` (R26). -/
  rxCnt : BitVec 8
  /-- `RES_KIND` (R24). -/
  resKind : ResKind
  /-- `RES_COUNT` (R24). -/
  resCount : Nat
  /-- `RSP` (R23). -/
  rsp : Response
  /-- `CONN_OPEN` (R28). -/
  connOpen : Bool
  /-- `RXQ`, oldest first (R30). -/
  rxq : List Byte
  /-- `TXQ`, oldest first (R30). -/
  txq : List Byte
  /-- `NOW` (R31). -/
  now : Nat
  /-- The model's own: the operations to come, of every agent, in the order they are taken (R34). -/
  agenda : List Byte
  /-- The model's own: the environment's answers to the coming link primitives (R40 to R42). -/
  draws : List Draw
  /-- The model's own: what the environment does between the coming steps of a blocking transaction (R43). -/
  turns : List EnvTurn
  /-- The model's own: how many free choices have been taken from Config. -/
  freeCount : Nat
  /-- The model's own: the value the last operation that returns one gave to its caller. -/
  returned : OpValue
deriving DecidableEq, Repr

/-- One step's outcome. -/
abbrev Out := Host.Outcome State Fault Refusal

/-- The state after reset (R33, R156). Registers R33 leaves unspecified hold the values of log entry 1; the two queues
are free (log entry 2). -/
def State.reset : State where
  phase := .idle
  reqCode := .unknown 0 0
  reqDst := ⟨0, 0, 0, 0⟩
  reqLen := 0
  reqPay := zeros Config.payloadCap
  expLen := 0
  tmr := 0
  elapsed := 0
  pollTmr := 0
  txBuf := zeros Config.payloadCap
  txLen := 0
  rxBuf := zeros Config.rxCap
  rxCnt := 0
  resKind := .none
  resCount := 0
  rsp := ⟨⟨0, 0, 0, 0⟩, ⟨0, 0, 0, 0⟩, false, .usual, []⟩
  connOpen := false
  rxq := Config.resetRxq
  txq := Config.resetTxq
  now := 0
  agenda := []
  draws := []
  turns := []
  freeCount := 0
  returned := .nothing

end Sys2Proof.Machine
end

