-- ==== Sys2Proof/Machine/Flags.lean ====
section
/-! DEFINITION. The status of the engine (R24): the numeric codes of `PHASE` and `RES_KIND`, the derived flags `BUSY` and
`DONE`, the result the host reads, and which engine step is due. -/
namespace Sys2Proof.Machine

/-- The code of a phase (R21). -/
def phaseCode : Phase → BitVec 3
  | .idle => 0
  | .settle => 1
  | .write => 2
  | .poll => 3
  | .read => 4
  | .done => 5

/-- The code of a result kind (R24, R128). -/
def resKindCode : ResKind → BitVec 3
  | .none => 0
  | .ok => 1
  | .ioError => 2
  | .timeout => 3
  | .frameError => 4
  | .noConnection => 5

/-- `BUSY` (R24): a transaction is in flight. -/
def busy (s : State) : Bool := s.phase != .idle && s.phase != .done

/-- `DONE` (R24): the result registers are valid. -/
def resultReady (s : State) : Bool := s.phase == .done

/-- The result the registers hold (R19, R128); `none` while there is none. -/
def txResult (s : State) : Option TxResult :=
  match s.resKind with
  | .none => none
  | .ok => some (.ok s.rsp)
  | .ioError => some (.err .ioError)
  | .timeout => some (.err .timeout)
  | .frameError => some (.err (.frameError s.resCount))
  | .noConnection => some (.err .noConnection)

/-- Whether an engine step is enabled (R102, R104, R105, R107). -/
def engineDue (p : Params) (s : State) : Bool :=
  match s.phase with
  | .idle => false
  | .settle => s.tmr == p.tSettle
  | .write => true
  | .poll => s.pollTmr == p.tPoll
  | .read => true
  | .done => false

end Sys2Proof.Machine
end

