-- ==== Sys2Proof/Machine/Ops.lean ====
section
/-! DEFINITION. The shared operations: the environment's choices, the link primitives (R39 to R42) and the environment's
steps (R43), entering an error (R133) and returning from it (R109, R140), and sequencing. -/
namespace Sys2Proof.Machine

/-- The environment's answer to the next link primitive: the next one State lists, else a free one. -/
def nextDraw (s : State) : Draw := s.draws.headD (Config.freeDraw s.freeCount)

/-- The state once that answer is taken. -/
def afterDraw (s : State) : State :=
  { s with
    draws := s.draws.tail
    freeCount := if s.draws.isEmpty then s.freeCount + 1 else s.freeCount }

/-- What the environment does before the next step of a blocking transaction: the next turn State lists, else a free
one. -/
def nextTurn (s : State) : EnvTurn := s.turns.headD (Config.freeTurn s.freeCount)

/-- The state once that turn is taken. -/
def afterTurn (s : State) : State :=
  { s with
    turns := s.turns.tail
    freeCount := if s.turns.isEmpty then s.freeCount + 1 else s.freeCount }

/-- A byte arrives from the line (R43). -/
def envDeliver (b : Byte) (s : State) : State := { s with rxq := s.rxq ++ [b] }

/-- The head byte of `TXQ`, if any, leaves on the line (R43). -/
def envDrain (s : State) : State := { s with txq := s.txq.drop 1 }

/-- A turn of the environment: bytes arrive, bytes leave; each is a run of the steps of R43. -/
def envTurn (s : State) : State :=
  { afterTurn s with
    rxq := s.rxq ++ (nextTurn s).deliver
    txq := s.txq.drop (nextTurn s).drain }

/-- `LinkFlush()` (R39). -/
def linkFlush (s : State) : State := { s with rxq := [], txq := [] }

/-- The bytes `LinkWrite(bytes)` hands to the link under a draw (R40): all on `ok`, else a proper part from the front,
of the drawn number of bytes. -/
def writtenBytes (bytes : List Byte) (d : Draw) : List Byte :=
  if d.ok then bytes else bytes.take (min d.count (bytes.length - 1))

/-- `LinkWrite(bytes)` (R40): whether it succeeds, and the state. -/
def linkWrite (bytes : List Byte) (s : State) : Bool × State :=
  ((nextDraw s).ok, { afterDraw s with txq := s.txq ++ writtenBytes bytes (nextDraw s) })

/-- `LinkAvail()` (R41): the number of bytes in `RXQ`, or `none` on failure, and the state. -/
def linkAvail (s : State) : Option Nat × State :=
  (if (nextDraw s).ok then some s.rxq.length else none, afterDraw s)

/-- The number of bytes `LinkRead(n)` returns under a draw (R42): the drawn number, at most `n` and what is there. -/
def readCount (n : Nat) (d : Draw) (s : State) : Nat := min d.count (min n s.rxq.length)

/-- `LinkRead(n)` (R42): the bytes read, or `none` on failure, and the state; the bytes read are removed. -/
def linkRead (n : Nat) (s : State) : Option (List Byte) × State :=
  if (nextDraw s).ok then
    (some (s.rxq.take (readCount n (nextDraw s) s)),
      { afterDraw s with rxq := s.rxq.drop (readCount n (nextDraw s) s) })
  else (none, afterDraw s)

/-- `raise K(n)` (R133): the one entry into an error; nothing else changes. -/
def raise (k : ResKind) (n : Nat) (s : State) : State := { s with resKind := k, resCount := n, phase := .done }

/-- The return from a result (R109, R140): nothing is restored. -/
def acknowledge (s : State) : State := { s with phase := .idle }

/-- A value is returned to the caller of an operation. -/
def giveBack (v : OpValue) (s : State) : State := { s with returned := v }

/-- One outcome after another: a stop ends it. -/
def andThen {α β : Type} (o : Host.Outcome α Fault Refusal) (k : α → Host.Outcome β Fault Refusal) :
    Host.Outcome β Fault Refusal :=
  match o with
  | .next a => k a
  | .fault f => .fault f
  | .refused r => .refused r

end Sys2Proof.Machine
end

