-- ==== Sys2Proof/Machine/CodecOps.lean ====
section
/-! DEFINITION. The codec's rows of the table: the four frame formats (R55 to R59), and the codec functions (R73 to R78,
R86 to R94). Each gives its value back to its caller and changes nothing else (R2). -/
namespace Sys2Proof.Machine

/-- An encoder's frame given back, or the refusal of its operand (R86, R88). -/
def giveFrame (f : Option (List Byte)) (why : Refusal) (s : State) : Out :=
  match f with
  | some l => .next (giveBack (.frame l) s)
  | none => .refused why

/-- Format `CMD`: R92 on the bytes, and R86 on what it finds. -/
def execFrameCmd (buf : List Byte) (s : State) : Out :=
  .next (giveBack (.cmdFormat (decodeCommand buf) ((decodeCommand buf).bind encodeCommand)) s)

/-- Format `RSP_USUAL`: R93 on the bytes, and R88 on what it finds. -/
def execFrameRspUsual (buf : List Byte) (s : State) : Out :=
  .next (giveBack (.rspFormat (decodeResponse Config.params buf)
    ((decodeResponse Config.params buf).bind encodeUsual)) s)

/-- Format `RSP_CPUID` (R58, R89). -/
def execFrameRspCpuid (dst src : Addr) (s : State) : Out := .next (giveBack (.frame (cpuidFrame dst src)) s)

/-- Format `RSP_LEGACY` (R59, R90). -/
def execFrameRspLegacy (s : State) : Out := .next (giveBack (.frame (encodeLegacyCipher Config.params)) s)

/-- `Checksum` (R73). -/
def execChecksum (b : List Byte) (s : State) : Out := .next (giveBack (.byte (checksum b)) s)

/-- `CodeFromBytes` (R74). -/
def execCodeFromBytes (hi lo : Byte) (s : State) : Out := .next (giveBack (.code (codeFromBytes hi lo)) s)

/-- `CodeCanonical` (R75). -/
def execCodeCanonical (c : Code) (s : State) : Out := .next (giveBack (.truth (codeCanonical c)) s)

/-- `CodeToBytes` (R76). -/
def execCodeToBytes (c : Code) (s : State) : Out :=
  .next (giveBack (.bytePair (codeToBytes c).1 (codeToBytes c).2) s)

/-- `CodeValue16` (R77). -/
def execCodeValue16 (c : Code) (s : State) : Out := .next (giveBack (.word16 (codeValue16 c)) s)

/-- `ExpectedResponseLen` (R78). -/
def execExpectedResponseLen (c : Code) (s : State) : Out := .next (giveBack (.length (expectedResponseLen c)) s)

/-- `EncodeCommand` (R86). -/
def execEncodeCommand (c : Command) (s : State) : Out := giveFrame (encodeCommand c) .commandTooLong s

/-- `EncodeResponse` (R87). -/
def execEncodeResponse (r : Response) (s : State) : Out :=
  giveFrame (encodeResponse Config.params r) .responseTooLong s

/-- The frame `EncodeUsual` gives back (R88): of a record of another shape R88 states none, and the bytes are free
(log entry 21). -/
def usualFrame (r : Response) (f : List Byte) : List Byte := if r.shape = .usual then f else Config.freeUsualFrame r

/-- `EncodeUsual` (R88). -/
def execEncodeUsual (r : Response) (s : State) : Out :=
  giveFrame ((encodeUsual r).map (usualFrame r)) .responseTooLong s

/-- `EncodeCpuID` (R89): "defined for every record". -/
def execEncodeCpuID (r : Response) (s : State) : Out := .next (giveBack (.frame (encodeCpuID r)) s)

/-- `EncodeLegacyCipher` (R90): no field of the record is read. -/
def execEncodeLegacyCipher (_r : Response) (s : State) : Out :=
  .next (giveBack (.frame (encodeLegacyCipher Config.params)) s)

/-- `DecodeCommand` (R92). -/
def execDecodeCommand (buf : List Byte) (s : State) : Out := .next (giveBack (.command (decodeCommand buf)) s)

/-- `DecodeResponse` (R93). -/
def execDecodeResponse (buf : List Byte) (s : State) : Out :=
  .next (giveBack (.response (decodeResponse Config.params buf)) s)

/-- `DecodeReason` (R94). -/
def execDecodeReason (kind : FrameKind) (buf : List Byte) (s : State) : Out :=
  .next (giveBack (.reason (decodeReason kind buf)) s)

end Sys2Proof.Machine
end

