-- ==== Sys2Proof/Machine/Engine.lean ====
section
/-! DEFINITION. The transaction engine (43_transaction_engine.md): its steps as functions of the parameters (R100 to
R110), the run of a transaction (R99), and the meanings of the engine's rows of the table. -/
namespace Sys2Proof.Machine

/-- What `Request` does where it is enabled (R100, R101). -/
def accept (code : Code) (dst : Addr) (pay : List Byte) (s : State) : State :=
  if s.connOpen then
    linkFlush { s with
      resKind := .none
      resCount := 0
      reqCode := code
      reqDst := dst
      reqLen := BitVec.ofNat 8 pay.length
      reqPay := payloadBuffer pay
      expLen := BitVec.ofNat 8 (expectedResponseLen code)
      tmr := 0
      phase := .settle }
  else raise .noConnection 0 { s with resKind := .none, resCount := 0 }

/-- `Request` (R100): enabled in `IDLE`, with at most 240 payload bytes. -/
def stepRequest (code : Code) (dst : Addr) (pay : List Byte) (s : State) : Out :=
  if s.phase ≠ .idle then .fault .requestOutsideIdle
  else if Config.cmdDataMax < pay.length then .refused .requestTooLong
  else .next (accept code dst pay s)

/-- The Command the request registers hold (R103). -/
def requestedCommand (s : State) : Command :=
  { dst := s.reqDst
    src := Config.stationAddr
    code := s.reqCode
    payload := s.reqPay.take s.reqLen.toNat }

/-- `BuildCommand` (R103): the encoded Command; `none` where R86 refuses it (R100 rules that out). -/
def buildCommand (s : State) : Option (List Byte) := encodeCommand (requestedCommand s)

/-- The frame into `TXBUF`, `TXLEN`, and on to `WRITE` (R102). -/
def loadFrame (f : List Byte) (s : State) : State :=
  { s with txBuf := overwrite s.txBuf f, txLen := BitVec.ofNat 8 f.length, phase := .write }

/-- `SettleDone` (R102). -/
def stepSettleDone (p : Params) (s : State) : Out :=
  if s.phase = .settle ∧ s.tmr = p.tSettle then
    match buildCommand s with
    | some f => .next (loadFrame f s)
    | none => .refused .commandTooLong
  else .fault .settleDoneNotEnabled

/-- The frame `TXBUF[0 : TXLEN)` (R26). -/
def txFrame (s : State) : List Byte := s.txBuf.take s.txLen.toNat

/-- The start of the poll loop (R104): the first poll is due at once. -/
def startPolling (p : Params) (s : State) : State :=
  { s with elapsed := 0, pollTmr := p.tPoll, phase := .poll }

/-- `Write` (R104). -/
def stepWrite (p : Params) (s : State) : Out :=
  if s.phase = .write then
    .next (if (linkWrite (txFrame s) s).1 then startPolling p (linkWrite (txFrame s) s).2
      else raise .ioError 0 (linkWrite (txFrame s) s).2)
  else .fault .writeNotEnabled

/-- What a poll that saw `a` does (R105, R106): availability first, then the timeout, then the wait. -/
def afterAvail (p : Params) (a : Option Nat) (s : State) : State :=
  match a with
  | none => raise .ioError 0 s
  | some n =>
    if s.expLen.toNat ≤ n then { s with phase := .read }
    else if p.tTimeout < s.elapsed then raise .timeout 0 s
    else { s with pollTmr := 0 }

/-- `Poll` (R105). -/
def stepPoll (p : Params) (s : State) : Out :=
  if s.phase = .poll ∧ s.pollTmr = p.tPoll then .next (afterAvail p (linkAvail s).1 (linkAvail s).2)
  else .fault .pollNotEnabled

/-- The bytes `RXBUF[0 : RXCNT)` (R26). -/
def rxFrame (s : State) : List Byte := s.rxBuf.take s.rxCnt.toNat

/-- `Complete` (R108). -/
def complete (p : Params) (s : State) : State :=
  match decodeResponse p (rxFrame s) with
  | none => raise .frameError s.rxCnt.toNat s
  | some r => { s with rsp := r, resKind := .ok, resCount := 0, phase := .done }

/-- The bytes of a read into `RXBUF`, `RXCNT` (R107). -/
def storeReceived (l : List Byte) (s : State) : State :=
  { s with rxBuf := overwrite s.rxBuf l, rxCnt := BitVec.ofNat 8 l.length }

/-- What a read that returned `b` does (R107). -/
def afterRead (p : Params) (b : Option (List Byte)) (s : State) : State :=
  match b with
  | none => raise .ioError 0 s
  | some l =>
    if l.length < s.expLen.toNat then raise .frameError l.length (storeReceived l s)
    else complete p (storeReceived l s)

/-- `Read` (R107). -/
def stepRead (p : Params) (s : State) : Out :=
  if s.phase = .read then .next (afterRead p (linkRead s.expLen.toNat s).1 (linkRead s.expLen.toNat s).2)
  else .fault .readNotEnabled

/-- `Ack` (R109). -/
def stepAck (s : State) : Out := if s.phase = .done then .next (acknowledge s) else .fault .ackNotEnabled

/-- One tick, `TICK_MS`, passes (R110). -/
def passTime (s : State) : State :=
  { s with
    now := s.now + Config.tickMs
    tmr := if s.phase = .settle then s.tmr + Config.tickMs else s.tmr
    elapsed := if s.phase = .poll then s.elapsed + Config.tickMs else s.elapsed
    pollTmr := if s.phase = .poll then s.pollTmr + Config.tickMs else s.pollTmr }

/-- `Tick` (R110): not while an engine step is enabled. -/
def stepTick (p : Params) (s : State) : Out :=
  if engineDue p s then .fault .tickNotEnabled else .next (passTime s)

/-- The step the machine takes when no host or environment step comes first: the engine's, if one is enabled, else a
`Tick` (R110). -/
def advance (p : Params) (s : State) : Out :=
  if engineDue p s then
    match s.phase with
    | .idle => stepTick p s
    | .settle => stepSettleDone p s
    | .write => stepWrite p s
    | .poll => stepPoll p s
    | .read => stepRead p s
    | .done => stepTick p s
  else stepTick p s

/-- At most `n` steps of a transaction, the environment acting before each, ending at `DONE`. -/
def engineRun (p : Params) : Nat → State → Out
  | 0, s => .next s
  | n + 1, s => if s.phase = .done then .next s else andThen (advance p (envTurn s)) (engineRun p n)

/-- A bound on the polls of a transaction (R106): at 0, `T_POLL_MS`, … up to the first time past the budget. -/
def pollBound (p : Params) : Nat := p.tTimeout / p.tPoll + 2

/-- A bound on the steps of a transaction from acceptance to `DONE`: the ticks of R111, the polls of R106, and
`SettleDone`, `Write` and `Read`. -/
def stepBound (p : Params) : Nat := p.tSettle + p.tPoll * (p.tTimeout / p.tPoll + 1) + pollBound p + 3

/-- The host's end of a call: at `DONE` the result is read and acknowledged (R109). -/
def finish (s : State) : Host.Outcome (TxResult × State) Fault Refusal :=
  match s.phase, txResult s with
  | .done, some r => .next (r, acknowledge s)
  | _, _ => .fault .transactionUnfinished

/-- A whole transaction (R99, R126 `try`): `Request`, the engine's steps with the environment acting between them, and
`Ack`. -/
def call (p : Params) (code : Code) (dst : Addr) (pay : List Byte) (s : State) :
    Host.Outcome (TxResult × State) Fault Refusal :=
  andThen (andThen (stepRequest code dst pay s) (engineRun p (stepBound p))) finish

/-- `Execute` (R99): the transaction, its result given back. -/
def execute (p : Params) (code : Code) (dst : Addr) (pay : List Byte) (s : State) : Out :=
  andThen (call p code dst pay s) fun x => .next (giveBack (.result x.1) x.2)

/-- `n` milliseconds pass on the host's side, the environment acting before each (R72, `WAIT n`). -/
def hostWait (p : Params) : Nat → State → Out
  | 0, s => .next s
  | n + 1, s => andThen (stepTick p (envTurn s)) (hostWait p n)

-- The meanings.

/-- `Execute` (R99). -/
def execExecute (code : Code) (dst : Addr) (pay : List Byte) (s : State) : Out := execute Config.params code dst pay s

/-- `Request` (R100). -/
def execRequest (code : Code) (dst : Addr) (pay : List Byte) (s : State) : Out := stepRequest code dst pay s

/-- `SettleDone` (R102). -/
def execSettleDone (s : State) : Out := stepSettleDone Config.params s

/-- `Write` (R104). -/
def execWrite (s : State) : Out := stepWrite Config.params s

/-- `Poll` (R105). -/
def execPoll (s : State) : Out := stepPoll Config.params s

/-- `Read` (R107). -/
def execRead (s : State) : Out := stepRead Config.params s

/-- `Ack` (R109). -/
def execAck (s : State) : Out := stepAck s

/-- `Tick` (R110). -/
def execTick (s : State) : Out := stepTick Config.params s

end Sys2Proof.Machine
end

