-- ==== Sys2Proof/Machine/Commands.lean ====
section
/-! DEFINITION. The six command rows (40_checksum_and_codes.md rules R79 to R84): each is the transaction of R99 with its
code. -/
namespace Sys2Proof.Machine

/-- `ReadInput` (R79). -/
def execReadInput (dst : Addr) (pay : List Byte) (s : State) : Out := execute Config.params .readInput dst pay s

/-- `SetOutput` (R80). -/
def execSetOutput (dst : Addr) (pay : List Byte) (s : State) : Out := execute Config.params .setOutput dst pay s

/-- `SetAddress` (R81). -/
def execSetAddress (dst : Addr) (pay : List Byte) (s : State) : Out := execute Config.params .setAddress dst pay s

/-- `ReadAddress` (R82). -/
def execReadAddress (dst : Addr) (pay : List Byte) (s : State) : Out := execute Config.params .readAddress dst pay s

/-- `ReadFirmwareVersion` (R83). -/
def execReadFirmwareVersion (dst : Addr) (pay : List Byte) (s : State) : Out :=
  execute Config.params .readFirmwareVersion dst pay s

/-- `Unknown(hi, lo)` (R84). -/
def execUnknown (hi lo : Byte) (dst : Addr) (pay : List Byte) (s : State) : Out :=
  execute Config.params (.unknown hi lo) dst pay s

end Sys2Proof.Machine
end

