-- ==== Sys2Proof/Machine/LinkOps.lean ====
section
/-! DEFINITION. The rows of the link and its surroundings: the four primitives (R39 to R42), the environment's steps (R43)
and the host's `Connect` and `Disconnect` (R149). -/
namespace Sys2Proof.Machine

/-- A link primitive as an operation of its own: while a transaction is in flight the engine owns the link, and nobody
else reads or writes it (R51, R146, U8; log entry 13). The engine's own uses, in its steps, are not these. -/
def onFreeLink (f : State → State) (s : State) : Out := if busy s then .refused .linkInUse else .next (f s)

/-- `LinkFlush` (R39): no result. -/
def execLinkFlush (s : State) : Out := onFreeLink linkFlush s

/-- `LinkWrite` (R40). -/
def execLinkWrite (bytes : List Byte) (s : State) : Out :=
  onFreeLink (fun s => giveBack (.written (linkWrite bytes s).1) (linkWrite bytes s).2) s

/-- `LinkAvail` (R41). -/
def execLinkAvail (s : State) : Out :=
  onFreeLink (fun s => giveBack (.available (linkAvail s).1) (linkAvail s).2) s

/-- `LinkRead` (R42). -/
def execLinkRead (n : Nat) (s : State) : Out :=
  onFreeLink (fun s => giveBack (.received (linkRead n s).1) (linkRead n s).2) s

/-- `EnvDeliver` (R43). -/
def execEnvDeliver (b : Byte) (s : State) : Out := .next (envDeliver b s)

/-- `EnvDrain` (R43). -/
def execEnvDrain (s : State) : Out := .next (envDrain s)

/-- `Connect` (R149): only in `IDLE`. -/
def execConnect (s : State) : Out :=
  if s.phase = .idle then .next { s with connOpen := true } else .refused .connectOutsideIdle

/-- `Disconnect` (R149): only in `IDLE`. -/
def execDisconnect (s : State) : Out :=
  if s.phase = .idle then .next { s with connOpen := false } else .refused .disconnectOutsideIdle

end Sys2Proof.Machine
end

