-- ==== Sys2Proof/Machine/Sequencer.lean ====
section
/-! DEFINITION. The acceptance test sequencer (44_host_sequencer.md rules R117 to R126), the host program over `Execute`:
it fails fast and makes no retry (R124). -/
namespace Sys2Proof.Machine

/-- A payload parameter cut to the 240 bytes every payload has at most (R118, log entry 12). -/
def hostPayload (pay : List Byte) : List Byte := pay.take Config.cmdDataMax

/-- The end of the test, with its report. -/
def reportBack (r : Report) (s : State) : Out := .next (giveBack (.report r) s)

/-- `try Execute(code, a, pay)` (R126): an error ends the test, a response goes on. -/
def tryCall (p : Params) (code : Code) (a : Addr) (pay : List Byte) (k : Response → State → Out) (s : State) : Out :=
  andThen (call p code a pay s) fun x =>
    match x.1 with
    | .ok r => k r x.2
    | .err e => reportBack (.engineError e) x.2

/-- `SetOutput(i, on)` (R72, R118). -/
def trySetOutput (p : Params) (a : Addr) (i : Fin 4) (on : Bool) (k : State → Out) (s : State) : Out :=
  tryCall p .setOutput a (hostPayload (p.paySetOutput i.val on)) (fun _ t => k t) s

/-- `ReadInput` and the test of its first payload byte, which is zero when the reply has none (R121, D28). -/
def checkInput (p : Params) (a : Addr) (step : StepId) (expected : Byte) (k : State → Out) (s : State) : Out :=
  tryCall p .readInput a []
    (fun r t =>
      if byteAt r.payload 0 = expected then k t
      else reportBack (.verificationFailure step expected (byteAt r.payload 0)) t) s

/-- Step 2 (R120) over the channels given. -/
def zeroOutputs (p : Params) (a : Addr) : List (Fin 4) → (State → Out) → State → Out
  | [], k, s => k s
  | i :: is, k, s => trySetOutput p a i false (zeroOutputs p a is k) s

/-- The byte channel `i` is to read, `1 << i` (R122). -/
def channelByte (i : Fin 4) : Byte := 1 <<< i.val

/-- Step 4 (R122) for one channel: on, wait, check, off, wait. -/
def toggleChannel (p : Params) (a : Addr) (i : Fin 4) (k : State → Out) (s : State) : Out :=
  trySetOutput p a i true
    (fun t => andThen (hostWait p p.tRelay t)
      (checkInput p a (.channel i) (channelByte i)
        (trySetOutput p a i false fun u => andThen (hostWait p p.tRelay u) k))) s

/-- Step 4 (R122) over the channels given. -/
def toggleChannels (p : Params) (a : Addr) : List (Fin 4) → (State → Out) → State → Out
  | [], k, s => k s
  | i :: is, k, s => toggleChannel p a i (toggleChannels p a is k) s

/-- The four channels, in order (R120). -/
def channels : List (Fin 4) := [0, 1, 2, 3]

/-- `AcceptanceTest(A)` (R126). -/
def acceptanceTest (p : Params) (a : Addr) (s : State) : Out :=
  tryCall p .setAddress a (hostPayload (p.paySetAddress a))
    (fun _ t => zeroOutputs p a channels
      (checkInput p a .initialCheck 0x00 (toggleChannels p a channels (reportBack .success))) t) s

/-- `AcceptanceTest` (R126). -/
def execAcceptanceTest (a : Addr) (s : State) : Out := acceptanceTest Config.params a s

end Sys2Proof.Machine
end

