-- ==== Sys2Proof/Machine/Dispatch.lean ====
section
/-! DEFINITION. One arm per constructor of Instr, each one direct call of its meaning. -/
namespace Sys2Proof.Machine

def exec (i : Instr) (s : State) : Host.Outcome State Fault Refusal :=
  match i with
  | .readInput dst pay => Sys2Proof.Machine.execReadInput dst pay s
  | .setOutput dst pay => Sys2Proof.Machine.execSetOutput dst pay s
  | .setAddress dst pay => Sys2Proof.Machine.execSetAddress dst pay s
  | .readAddress dst pay => Sys2Proof.Machine.execReadAddress dst pay s
  | .readFirmwareVersion dst pay => Sys2Proof.Machine.execReadFirmwareVersion dst pay s
  | .unknown hi lo dst pay => Sys2Proof.Machine.execUnknown hi lo dst pay s
  | .frameCmd buf => Sys2Proof.Machine.execFrameCmd buf s
  | .frameRspUsual buf => Sys2Proof.Machine.execFrameRspUsual buf s
  | .frameRspCpuid dst src => Sys2Proof.Machine.execFrameRspCpuid dst src s
  | .frameRspLegacy => Sys2Proof.Machine.execFrameRspLegacy s
  | .checksum b => Sys2Proof.Machine.execChecksum b s
  | .codeFromBytes hi lo => Sys2Proof.Machine.execCodeFromBytes hi lo s
  | .codeCanonical c => Sys2Proof.Machine.execCodeCanonical c s
  | .codeToBytes c => Sys2Proof.Machine.execCodeToBytes c s
  | .codeValue16 c => Sys2Proof.Machine.execCodeValue16 c s
  | .expectedResponseLen c => Sys2Proof.Machine.execExpectedResponseLen c s
  | .encodeCommand c => Sys2Proof.Machine.execEncodeCommand c s
  | .encodeResponse r => Sys2Proof.Machine.execEncodeResponse r s
  | .encodeUsual r => Sys2Proof.Machine.execEncodeUsual r s
  | .encodeCpuID r => Sys2Proof.Machine.execEncodeCpuID r s
  | .encodeLegacyCipher r => Sys2Proof.Machine.execEncodeLegacyCipher r s
  | .decodeCommand buf => Sys2Proof.Machine.execDecodeCommand buf s
  | .decodeResponse buf => Sys2Proof.Machine.execDecodeResponse buf s
  | .decodeReason kind buf => Sys2Proof.Machine.execDecodeReason kind buf s
  | .execute code dst pay => Sys2Proof.Machine.execExecute code dst pay s
  | .request code dst pay => Sys2Proof.Machine.execRequest code dst pay s
  | .settleDone => Sys2Proof.Machine.execSettleDone s
  | .write => Sys2Proof.Machine.execWrite s
  | .poll => Sys2Proof.Machine.execPoll s
  | .read => Sys2Proof.Machine.execRead s
  | .ack => Sys2Proof.Machine.execAck s
  | .tick => Sys2Proof.Machine.execTick s
  | .linkFlush => Sys2Proof.Machine.execLinkFlush s
  | .linkWrite bytes => Sys2Proof.Machine.execLinkWrite bytes s
  | .linkAvail => Sys2Proof.Machine.execLinkAvail s
  | .linkRead n => Sys2Proof.Machine.execLinkRead n s
  | .envDeliver b => Sys2Proof.Machine.execEnvDeliver b s
  | .envDrain => Sys2Proof.Machine.execEnvDrain s
  | .connect => Sys2Proof.Machine.execConnect s
  | .disconnect => Sys2Proof.Machine.execDisconnect s
  | .acceptanceTest a => Sys2Proof.Machine.execAcceptanceTest a s

end Sys2Proof.Machine
end

