-- ==== Sys2Proof/Machine/Fetch.lean ====
section
/-! DEFINITION. Fetching: the next operation of the agenda, the interleaving of all agents (R34). -/
namespace Sys2Proof.Machine

/-- What the agenda holds next. -/
inductive Fetched where
  /-- No host or environment step is planned. -/
  | unplanned
  /-- An operation, and the state past its bytes. -/
  | operation (i : Instr) (s : State)
  /-- Bytes that are no operation. -/
  | rejected (why : DecodeReject)

/-- The next operation. -/
def fetch (s : State) : Fetched :=
  match s.agenda with
  | [] => .unplanned
  | b :: l =>
    match decode (b :: l) with
    | .ok x => .operation x.1 { s with agenda := x.2 }
    | .error e => .rejected e

/-- The state with a table word's bytes as its agenda. -/
def placeWord (s : State) (nbits w : Nat) : State := { s with agenda := tableWordBytes nbits w }

end Sys2Proof.Machine
end

