-- ==== Sys2Proof/Machine/Step.lean ====
section
/-! DEFINITION. One step: the next operation of the agenda, or, when none is planned, the engine's enabled step, or else
a millisecond (R34, R110). -/
namespace Sys2Proof.Machine

/-- One step. -/
def step (s : State) : Host.Outcome State Fault Refusal :=
  match fetch s with
  | .unplanned => advance Config.params s
  | .operation i t => exec i t
  | .rejected e => .refused (.undecodable e)

/-- `s` with a table word where `step` fetches its next operation. -/
def State.withFetchWord (s : State) (nbits w : Nat) : State := placeWord s nbits w

end Sys2Proof.Machine
end

