-- ==== Sys2Proof/Machine/Sequential.lean ====
section
/-! DEFINITION. `Execute` as the one sequential procedure of rule R99, over the link and time alone: no phase, no timer and
no register of the engine. "The two descriptions are meant to agree" (43_transaction_engine.md): that they do is a
statement about the steps of Machine/Engine.lean. The environment acts before every millisecond and before every
action of the engine, as in a run of the steps. -/
namespace Sys2Proof.Machine

/-- `wait d` of R99: `d` ticks of `TICK_MS` = 1 pass, the environment acting before each. -/
def waitMs : Nat → State → State
  | 0, s => s
  | n + 1, s => waitMs n { envTurn s with now := s.now + Config.tickMs }

/-- "read exactly that many bytes; decode as a Response": the end of R99's procedure. -/
def readReply (p : Params) (n : Nat) (s : State) : TxResult × State :=
  match (linkRead n s).1 with
  | none => (.err .ioError, (linkRead n s).2)
  | some b =>
    if b.length < n then (.err (.frameError b.length), (linkRead n s).2)
    else
      match decodeResponse p b with
      | none => (.err (.frameError b.length), (linkRead n s).2)
      | some r => (.ok r, (linkRead n s).2)

/-- The poll loop of R99, with at most `k` polls left: `t` is the time since the write. -/
def pollLoop (p : Params) (n : Nat) : Nat → Nat → State → TxResult × State
  | 0, _, s => (.err .timeout, s)
  | k + 1, t, s =>
    match (linkAvail (envTurn s)).1 with
    | none => (.err .ioError, (linkAvail (envTurn s)).2)
    | some a =>
      if n ≤ a then readReply p n (envTurn (linkAvail (envTurn s)).2)
      else if p.tTimeout < t then (.err .timeout, (linkAvail (envTurn s)).2)
      else pollLoop p n k (t + p.tPoll) (waitMs p.tPoll (linkAvail (envTurn s)).2)

/-- The write of R99, and the poll loop after it. -/
def writeAndPoll (p : Params) (n : Nat) (f : List Byte) (s : State) : TxResult × State :=
  if (linkWrite f s).1 then pollLoop p n (p.tTimeout / p.tPoll + 2) 0 (linkWrite f s).2
  else (.err .ioError, (linkWrite f s).2)

/-- `Execute(code, dst, pay)` by R99, for the payloads it is defined for; the state tells the link, the time and the
environment's choices left, and nothing of the engine. -/
def sequentialExecute (p : Params) (code : Code) (dst : Addr) (pay : List Byte) (s : State) : TxResult × State :=
  if s.connOpen then
    writeAndPoll p (expectedResponseLen code) ((encodeCommand ⟨dst, Config.stationAddr, code, pay⟩).getD [])
      (envTurn (envTurn (waitMs p.tSettle (linkFlush s))))
  else (.err .noConnection, s)

end Sys2Proof.Machine
end

