-- ==== Sys2Proof/Machine/SequentialTest.lean ====
section
/-! DEFINITION. `AcceptanceTest` as the program of rule R126 over the sequential procedures of R99, `Execute` and the
wait: no phase, no timer and no register of the engine. That the acceptance test of Machine/Sequencer.lean is this program
is a statement. -/
namespace Sys2Proof.Machine

/-- A part of the program: it goes on, or the whole program ends with a report. -/
abbrev TestPart (α : Type) := Except (Report × State) α

/-- `try Execute(code, a, pay)`: an error is the report, and nothing follows (R124). -/
def tryExecute (p : Params) (code : Code) (a : Addr) (pay : List Byte) (s : State) : TestPart (Response × State) :=
  match sequentialExecute p code a (hostPayload pay) s with
  | (.ok r, t) => .ok (r, t)
  | (.err e, t) => .error (.engineError e, t)

/-- `try Execute(SetOutput, a, PAY_SET_OUTPUT(i, on))` (R120, R122). -/
def setChannel (p : Params) (a : Addr) (i : Fin 4) (on : Bool) (s : State) : TestPart State :=
  (tryExecute p .setOutput a (p.paySetOutput i.val on) s).map Prod.snd

/-- `r <- try Execute(ReadInput, a, [])`, and the test of its first payload byte (R121, R122). -/
def verifyInput (p : Params) (a : Addr) (step : StepId) (expected : Byte) (s : State) : TestPart State :=
  (tryExecute p .readInput a [] s).bind fun x =>
    if byteAt x.1.payload 0 = expected then .ok x.2
    else .error (.verificationFailure step expected (byteAt x.1.payload 0), x.2)

/-- Step 2 (R120): the channels off, in order. -/
def allOff (p : Params) (a : Addr) : List (Fin 4) → State → TestPart State
  | [], s => .ok s
  | i :: is, s => (setChannel p a i false s).bind (allOff p a is)

/-- Step 4 (R122): for each channel in order on, wait, verify, off, wait. -/
def toggleInTurn (p : Params) (a : Addr) : List (Fin 4) → State → TestPart State
  | [], s => .ok s
  | i :: is, s =>
    (setChannel p a i true s).bind fun t =>
      (verifyInput p a (.channel i) (channelByte i) (waitMs p.tRelay t)).bind fun u =>
        (setChannel p a i false u).bind fun v => toggleInTurn p a is (waitMs p.tRelay v)

/-- `AcceptanceTest(a)` by R126: its report, and the link, the time and the environment's choices left. -/
def sequentialAcceptanceTest (p : Params) (a : Addr) (s : State) : Report × State :=
  match (tryExecute p .setAddress a (p.paySetAddress a) s).bind fun x =>
    (allOff p a channels x.2).bind fun t =>
      (verifyInput p a .initialCheck 0x00 t).bind (toggleInTurn p a channels) with
  | .ok t => (.success, t)
  | .error x => x

end Sys2Proof.Machine
end

