-- ==== Sys2Proof/Safety.lean ====
section
/-! DEFINITION. What a safe state and a safe step are: the invariant of the engine's registers, the arrows `PHASE` may
take, and reachability. -/
namespace Sys2Proof.Machine

/-- The invariant of the engine's registers (R17, R22 to R28). -/
structure Inv (p : Params) (s : State) : Prop where
  /-- `REQ_PAY` has 255 bytes (R20). -/
  reqPay_length : s.reqPay.length = Config.payloadCap
  /-- `REQ_LEN <= 240` (R100, R103). -/
  reqLen_le : s.reqLen.toNat ≤ Config.cmdDataMax
  /-- `REQ_PAY[i] = 0x00` for `i >= REQ_LEN` (R22). -/
  reqPay_zero : ∀ i, s.reqLen.toNat ≤ i → byteAt s.reqPay i = 0x00
  /-- `EXP_LEN` holds `ExpectedResponseLen(REQ_CODE)` (R27). -/
  expLen_eq : s.expLen.toNat = expectedResponseLen s.reqCode
  /-- `TXBUF` has 255 bytes (R20). -/
  txBuf_length : s.txBuf.length = Config.payloadCap
  /-- `RXBUF` has 18 bytes (R20). -/
  rxBuf_length : s.rxBuf.length = Config.rxCap
  /-- `RXCNT <= 18` (R26). -/
  rxCnt_le : s.rxCnt.toNat ≤ Config.rxCap
  /-- `TMR <= T_SETTLE_MS` (R25). -/
  tmr_le : s.tmr ≤ p.tSettle
  /-- `POLL_TMR <= T_POLL_MS` (R25). -/
  pollTmr_le : s.pollTmr ≤ p.tPoll
  /-- `ELAPSED <= T_TIMEOUT_MS + T_POLL_MS` (R25). -/
  elapsed_le : s.elapsed ≤ p.tTimeout + p.tPoll
  /-- While polling, the budget was not exceeded at the last poll. -/
  polling : s.phase = .poll → s.elapsed ≤ p.tTimeout + s.pollTmr
  /-- Between `SettleDone` and `Write`, `TXBUF[0 : TXLEN)` is the Command of the request registers (R26, R52). -/
  framed : s.phase = .write → buildCommand s = some (txFrame s)
  /-- No result while a transaction is in flight (R24). -/
  busy_none : busy s = true → s.resKind = .none
  /-- A result in `DONE` (R24). -/
  done_some : s.phase = .done → s.resKind ≠ .none
  /-- `RES_COUNT` is 0 unless the result is a frame error (R24). -/
  count_zero : s.resKind ≠ .frameError → s.resCount = 0
  /-- A frame error counts at most the bytes of the longest reply (R107). -/
  count_le : s.resCount ≤ Config.rxCap
  /-- A response is of shape `Usual` and no longer than the bytes read (R70, U17). -/
  ok_rsp : s.resKind = .ok → s.rsp.shape = .usual ∧ s.rsp.payload.length + Config.rspOverhead ≤ s.expLen.toNat
  /-- A transaction in flight has an open connection (R100, R149). -/
  connected : busy s = true → s.connOpen = true

/-- The arrows of `PHASE` (R111). -/
def phaseArrows : List (Phase × Phase) :=
  [(.idle, .done), (.idle, .settle), (.settle, .settle), (.settle, .write), (.write, .poll), (.write, .done)]
  ++ [(.poll, .poll), (.poll, .done), (.poll, .read), (.read, .done), (.done, .idle)]

/-- The blocking operations: they run a whole transaction, or several. -/
def blocking : Instr → Bool
  | .readInput _ _ | .setOutput _ _ | .setAddress _ _ | .readAddress _ _ | .readFirmwareVersion _ _ => true
  | .unknown _ _ _ _ | .execute _ _ _ | .acceptanceTest _ => true
  | .frameCmd _ | .frameRspUsual _ | .frameRspCpuid _ _ | .frameRspLegacy => false
  | .checksum _ | .codeFromBytes _ _ | .codeCanonical _ | .codeToBytes _ | .codeValue16 _ => false
  | .expectedResponseLen _ | .encodeCommand _ | .encodeResponse _ | .encodeUsual _ | .encodeCpuID _ => false
  | .encodeLegacyCipher _ | .decodeCommand _ | .decodeResponse _ | .decodeReason _ _ => false
  | .request _ _ _ | .settleDone | .write | .poll | .read | .ack | .tick => false
  | .linkFlush | .linkWrite _ | .linkAvail | .linkRead _ | .envDeliver _ | .envDrain => false
  | .connect | .disconnect => false

/-- The operations that are one whole transaction, with its code, destination and payload (R79 to R84, R99). -/
def transactionOf : Instr → Option (Code × Addr × List Byte)
  | .readInput dst pay => some (.readInput, dst, pay)
  | .setOutput dst pay => some (.setOutput, dst, pay)
  | .setAddress dst pay => some (.setAddress, dst, pay)
  | .readAddress dst pay => some (.readAddress, dst, pay)
  | .readFirmwareVersion dst pay => some (.readFirmwareVersion, dst, pay)
  | .unknown hi lo dst pay => some (.unknown hi lo, dst, pay)
  | .execute code dst pay => some (code, dst, pay)
  | .frameCmd _ | .frameRspUsual _ | .frameRspCpuid _ _ | .frameRspLegacy => none
  | .checksum _ | .codeFromBytes _ _ | .codeCanonical _ | .codeToBytes _ | .codeValue16 _ => none
  | .expectedResponseLen _ | .encodeCommand _ | .encodeResponse _ | .encodeUsual _ | .encodeCpuID _ => none
  | .encodeLegacyCipher _ | .decodeCommand _ | .decodeResponse _ | .decodeReason _ _ => none
  | .request _ _ _ | .settleDone | .write | .poll | .read | .ack | .tick => none
  | .linkFlush | .linkWrite _ | .linkAvail | .linkRead _ | .envDeliver _ | .envDrain => none
  | .connect | .disconnect | .acceptanceTest _ => none

/-- The operations of the codec, which hold no state (R2). -/
def codecOperation : Instr → Bool
  | .frameCmd _ | .frameRspUsual _ | .frameRspCpuid _ _ | .frameRspLegacy => true
  | .checksum _ | .codeFromBytes _ _ | .codeCanonical _ | .codeToBytes _ | .codeValue16 _ => true
  | .expectedResponseLen _ | .encodeCommand _ | .encodeResponse _ | .encodeUsual _ | .encodeCpuID _ => true
  | .encodeLegacyCipher _ | .decodeCommand _ | .decodeResponse _ | .decodeReason _ _ => true
  | .readInput _ _ | .setOutput _ _ | .setAddress _ _ | .readAddress _ _ | .readFirmwareVersion _ _ => false
  | .unknown _ _ _ _ | .execute _ _ _ | .acceptanceTest _ => false
  | .request _ _ _ | .settleDone | .write | .poll | .read | .ack | .tick => false
  | .linkFlush | .linkWrite _ | .linkAvail | .linkRead _ | .envDeliver _ | .envDrain => false
  | .connect | .disconnect => false

/-- The operations that encode no more payload than a frame holds (R86, R88); every one that encodes none is among them. -/
def encodable : Instr → Bool
  | .encodeCommand c => c.payload.length ≤ 240
  | .encodeUsual r => r.payload.length ≤ 241
  | .encodeResponse r => r.shape != .usual || r.payload.length ≤ 241
  | .readInput _ _ | .setOutput _ _ | .setAddress _ _ | .readAddress _ _ | .readFirmwareVersion _ _ => true
  | .unknown _ _ _ _ | .execute _ _ _ | .acceptanceTest _ => true
  | .frameCmd _ | .frameRspUsual _ | .frameRspCpuid _ _ | .frameRspLegacy => true
  | .checksum _ | .codeFromBytes _ _ | .codeCanonical _ | .codeToBytes _ | .codeValue16 _ => true
  | .expectedResponseLen _ | .encodeCpuID _ | .encodeLegacyCipher _ => true
  | .decodeCommand _ | .decodeResponse _ | .decodeReason _ _ => true
  | .request _ _ _ | .settleDone | .write | .poll | .read | .ack | .tick => true
  | .linkFlush | .linkWrite _ | .linkAvail | .linkRead _ | .envDeliver _ | .envDrain => true
  | .connect | .disconnect => true

/-- The five codes of the table, as the bytes 12 and 13 of a Command (R66). -/
def tableBytes : List (Byte × Byte) := [(0x01, 0x01), (0xFF, 0x01), (0xFF, 0x03), (0xFF, 0x04), (0x40, 0x0A)]

/-- The sum of a byte string as a number, before it wraps (R73). -/
def byteSum (b : List Byte) : Nat := (b.map BitVec.toNat).sum

/-- The five conditions under which a decoder takes a frame of length `len` from the start of `buf` (R92, R93); `min` is
15 for a Command and 14 for a Response. -/
def frameAt (min : Nat) (buf : List Byte) (len : Nat) : Prop :=
  min ≤ buf.length ∧ buf[0]? = some 0x02 ∧ (∃ l : Byte, buf[2]? = some l ∧ l.toNat = len) ∧ min ≤ len ∧ len ≤ buf.length ∧
    ∃ c : Byte, buf[len - 1]? = some c ∧ c.toNat = byteSum (buf.take (len - 1)) % 256

/-- The states a run of steps can reach from a given one. -/
inductive Reaches (s : State) : State → Prop where
  | here : Reaches s s
  | there {t u : State} : Reaches s t → step t = .next u → Reaches s u

end Sys2Proof.Machine
end

