-- ==== Sys2Proof/Certificates/Slice0/Obligations.lean ====
section
/-! DEFINITION. The statements about the model, one `Obligations.<Name>` each; OBLIGATIONS.json lists them. -/

open Sys2Proof Sys2Proof.Machine

-- Reset, the invariant and the whole machine.

/-- The values the spec gives for reset (R33, R156); the registers and queues it leaves unspecified are not mentioned. -/
def Obligations.ResetHoldsTheStatedValues : Prop :=
  State.reset.phase = .idle ∧ State.reset.connOpen = false ∧ State.reset.resKind = .none ∧ State.reset.resCount = 0 ∧
    State.reset.tmr = 0 ∧ State.reset.elapsed = 0 ∧ State.reset.pollTmr = 0 ∧ State.reset.expLen = 0 ∧
    State.reset.now = 0

/-- The state after reset meets the invariant of Safety.lean. The registers R33 leaves unspecified hold the model's own
values there (log entry 1). -/
def Obligations.ResetMeetsTheInvariant : Prop := Inv Config.params State.reset

/-- Every step keeps the invariant: the widths and ranges of the registers and timers (R20, R25, R26), the zero fill of
`REQ_PAY` (R22), `EXP_LEN` (R27), the encoded Command in `TXBUF` (R26, R52), and what `RES_KIND`, `RES_COUNT` and `RSP`
may hold in each phase (R24). -/
def Obligations.EveryStepKeepsTheInvariant : Prop :=
  ∀ s t : State, Inv Config.params s → step s = .next t → Inv Config.params t

/-- "No other transition exists" (R111): one operation that is not a blocking one moves `PHASE` along one arrow of the
table at most, and only Request, the engine's steps and Ack move it. That a blocking operation, the whole call with its
`Ack`, is one step from `IDLE` to `IDLE` is the model's choice (log entry 6); R111 knows no such step. -/
def Obligations.PhaseMovesOnlyAlongTheArrows : Prop :=
  ∀ (i : Instr) (s t : State), exec i s = .next t →
    (blocking i = true → s.phase = .idle ∧ t.phase = .idle) ∧
    (blocking i = false → t.phase ≠ s.phase → (s.phase, t.phase) ∈ phaseArrows ∧
      ((∃ c d q, i = .request c d q) ∨ i = .settleDone ∨ i = .write ∨ i = .poll ∨ i = .read ∨ i = .ack))

/-- `CONN_OPEN` is written by the host's Connect and Disconnect alone (R20, R28), and then in `IDLE`. -/
def Obligations.OnlyConnectAndDisconnectMoveTheConnection : Prop :=
  ∀ (i : Instr) (s t : State), exec i s = .next t →
    t.connOpen = s.connOpen ∨ (s.phase = .idle ∧ ((i = .connect ∧ t.connOpen = true) ∨
      (i = .disconnect ∧ t.connOpen = false)))

/-- The request registers are written only by Request, and `RSP` only by Read (R18, R20), the blocking operations, which
contain both, aside; a Read that writes `RSP` leaves `RES_KIND = OK`. -/
def Obligations.RecordsAreWrittenOnlyAtAcceptanceAndCompletion : Prop :=
  ∀ (i : Instr) (s t : State), blocking i = false → exec i s = .next t →
    ((∀ c d q, i ≠ .request c d q) → t.reqCode = s.reqCode ∧ t.reqDst = s.reqDst ∧ t.reqLen = s.reqLen ∧
      t.reqPay = s.reqPay ∧ t.expLen = s.expLen) ∧
    (t.rsp ≠ s.rsp → i = .read ∧ t.resKind = .ok)

/-- `NOW` is moved by time alone: it never goes back, and an operation that is neither Tick nor a blocking one leaves it
(R31, R110). -/
def Obligations.OnlyTimeMovesNow : Prop :=
  ∀ (i : Instr) (s t : State), exec i s = .next t →
    s.now ≤ t.now ∧ (i ≠ .tick → blocking i = false → t.now = s.now)

/-- The codec is pure and total (R2, R98, R91 (e)): an operation of it changes only the value given back to its caller (a
field of the model's own, log entry 7), that value does not depend on the state, and every operation but an encoding of
more bytes than a frame holds (R86, R88) completes in every state, EncodeUsual on a record of another shape included,
whose frame is a free value (log entry 21). -/
def Obligations.CodecOperationsArePure : Prop :=
  (∀ (i : Instr) (s t : State), codecOperation i = true → exec i s = .next t →
    t = { s with returned := t.returned } ∧
      ∀ u : State, exec i u = .next { u with returned := t.returned }) ∧
  ∀ i : Instr, codecOperation i = true → encodable i = true →
    ∃ v, ∀ s : State, exec i s = .next { s with returned := v }

-- The codec: checksum and codes.

/-- R73: the sum of the bytes, with wraparound, and nothing else changed. -/
def Obligations.ChecksumIsTheWrappedByteSum : Prop :=
  ∀ (b : List Byte) (s : State), ∃ c : Byte, exec (.checksum b) s = .next { s with returned := .byte c } ∧
    c.toNat = byteSum b % 256

/-- R74: the five table pairs give their variants and every other pair its `Unknown`. -/
def Obligations.CodeFromBytesReadsTheTable : Prop :=
  ∀ (hi lo : Byte) (s : State), ∃ c : Code, exec (.codeFromBytes hi lo) s = .next { s with returned := .code c } ∧
    ((hi, lo) = (0x01, 0x01) → c = .readInput) ∧ ((hi, lo) = (0xFF, 0x01) → c = .setOutput) ∧
    ((hi, lo) = (0xFF, 0x03) → c = .setAddress) ∧ ((hi, lo) = (0xFF, 0x04) → c = .readAddress) ∧
    ((hi, lo) = (0x40, 0x0A) → c = .readFirmwareVersion) ∧ ((hi, lo) ∉ tableBytes → c = .unknown hi lo)

/-- R75: every table variant, and the `Unknown` values whose bytes are not in the table; every code read from bytes. -/
def Obligations.CodeCanonicalExcludesTableBytes : Prop :=
  (∀ (c : Code) (s : State), ∃ b : Bool, exec (.codeCanonical c) s = .next { s with returned := .truth b } ∧
    (b = true ↔ ∀ hi lo, c = .unknown hi lo → (hi, lo) ∉ tableBytes)) ∧
  ∀ (hi lo : Byte) (s : State),
    exec (.codeCanonical (codeFromBytes hi lo)) s = .next { s with returned := .truth true }

/-- R76: the table's bytes, and an `Unknown`'s own bytes verbatim. -/
def Obligations.CodeToBytesWritesTheTable : Prop :=
  ∀ s : State,
    exec (.codeToBytes .readInput) s = .next { s with returned := .bytePair 0x01 0x01 } ∧
    exec (.codeToBytes .setOutput) s = .next { s with returned := .bytePair 0xFF 0x01 } ∧
    exec (.codeToBytes .setAddress) s = .next { s with returned := .bytePair 0xFF 0x03 } ∧
    exec (.codeToBytes .readAddress) s = .next { s with returned := .bytePair 0xFF 0x04 } ∧
    exec (.codeToBytes .readFirmwareVersion) s = .next { s with returned := .bytePair 0x40 0x0A } ∧
    ∀ hi lo, exec (.codeToBytes (.unknown hi lo)) s = .next { s with returned := .bytePair hi lo }

/-- R77: the table's values, and the sentinel for every `Unknown`. -/
def Obligations.CodeValue16GivesTheTableOrTheSentinel : Prop :=
  ∀ s : State,
    exec (.codeValue16 .readInput) s = .next { s with returned := .word16 0x0101 } ∧
    exec (.codeValue16 .setOutput) s = .next { s with returned := .word16 0xFF01 } ∧
    exec (.codeValue16 .setAddress) s = .next { s with returned := .word16 0xFF03 } ∧
    exec (.codeValue16 .readAddress) s = .next { s with returned := .word16 0xFF04 } ∧
    exec (.codeValue16 .readFirmwareVersion) s = .next { s with returned := .word16 0x400A } ∧
    ∀ hi lo, exec (.codeValue16 (.unknown hi lo)) s = .next { s with returned := .word16 0xFFFF }

/-- R78: the reply lengths, 0 for every `Unknown`, canonical or not. -/
def Obligations.ExpectedResponseLenGivesTheTable : Prop :=
  ∀ s : State,
    exec (.expectedResponseLen .setAddress) s = .next { s with returned := .length 15 } ∧
    exec (.expectedResponseLen .readInput) s = .next { s with returned := .length 15 } ∧
    exec (.expectedResponseLen .setOutput) s = .next { s with returned := .length 14 } ∧
    exec (.expectedResponseLen .readFirmwareVersion) s = .next { s with returned := .length 18 } ∧
    exec (.expectedResponseLen .readAddress) s = .next { s with returned := .length 18 } ∧
    ∀ hi lo, exec (.expectedResponseLen (.unknown hi lo)) s = .next { s with returned := .length 0 }

/-- The laws of the two byte conversions (derived in R76): one way they always invert, the other way exactly on the
canonical codes; and no code is read from bytes that is not canonical (R75). -/
def Obligations.CodeConversionsInvertOnCanonicalCodes : Prop :=
  (∀ hi lo : Byte, codeToBytes (codeFromBytes hi lo) = (hi, lo) ∧ codeCanonical (codeFromBytes hi lo) = true) ∧
  ∀ c : Code, codeFromBytes (codeToBytes c).1 (codeToBytes c).2 = c ↔ codeCanonical c = true

-- The codec: encoders.

/-- R86 and the format of R56: the frame's bytes, for every payload up to 240 bytes, and the refusal above. -/
def Obligations.EncodeCommandLaysOutTheFrame : Prop :=
  ∀ (c : Command) (s : State),
    (c.payload.length ≤ 240 → ∃ cs : Byte,
      exec (.encodeCommand c) s = .next { s with
        returned := .frame
          ([0x02, 0x01, BitVec.ofNat 8 (15 + c.payload.length), 0x00, c.dst.b0, c.dst.b1, c.dst.b2, c.dst.b3, c.src.b0,
          c.src.b1, c.src.b2, c.src.b3, (codeToBytes c.code).1, (codeToBytes c.code).2] ++ c.payload ++ [cs]) } ∧
      cs.toNat = byteSum ([0x02, 0x01, BitVec.ofNat 8 (15 + c.payload.length), 0x00, c.dst.b0, c.dst.b1, c.dst.b2,
        c.dst.b3, c.src.b0, c.src.b1, c.src.b2, c.src.b3, (codeToBytes c.code).1, (codeToBytes c.code).2] ++ c.payload)
          % 256) ∧
    (240 < c.payload.length → exec (.encodeCommand c) s = .refused .commandTooLong)

/-- R88 and the format of R57: the frame's bytes, for every payload up to 241 bytes, and the refusal above. -/
def Obligations.EncodeUsualLaysOutTheFrame : Prop :=
  ∀ (r : Response) (s : State), r.shape = .usual →
    (r.payload.length ≤ 241 → ∃ cs : Byte,
      exec (.encodeUsual r) s = .next { s with
        returned := .frame
          ([0x02, 0x01, BitVec.ofNat 8 (14 + r.payload.length), 0x00, r.dst.b0, r.dst.b1, r.dst.b2, r.dst.b3, r.src.b0,
          r.src.b1, r.src.b2, r.src.b3, if r.error then 0x01 else 0x00] ++ r.payload ++ [cs]) } ∧
      cs.toNat = byteSum ([0x02, 0x01, BitVec.ofNat 8 (14 + r.payload.length), 0x00, r.dst.b0, r.dst.b1, r.dst.b2,
        r.dst.b3, r.src.b0, r.src.b1, r.src.b2, r.src.b3, if r.error then 0x01 else 0x00] ++ r.payload) % 256) ∧
    (241 < r.payload.length → exec (.encodeUsual r) s = .refused .responseTooLong)

/-- R89 and the format of R58 (its field positions are decision D4's): 18 bytes, only the two addresses read, for every
record. That the row of the format, as an operation, gives the same frame is the model's choice (log entry 8). -/
def Obligations.EncodeCpuIDLaysOutTheFrame : Prop :=
  ∀ (r : Response) (s : State), ∃ cs : Byte,
    cs.toNat = byteSum [0x02, 0x01, 18, 0x00, r.dst.b0, r.dst.b1, r.dst.b2, r.dst.b3, r.src.b0, r.src.b1, r.src.b2,
      r.src.b3, 0, 0, 0, 0, 0] % 256 ∧
    ∀ i ∈ [Instr.encodeCpuID r, Instr.frameRspCpuid r.dst r.src],
      exec i s = .next { s with
        returned := .frame
          [0x02, 0x01, 18, 0x00, r.dst.b0, r.dst.b1, r.dst.b2, r.dst.b3, r.src.b0, r.src.b1, r.src.b2, r.src.b3,
          0, 0, 0, 0, 0, cs] }

/-- R90 and the format of R59: 22 bytes, the parameter's 21 and their checksum, the same for every record; byte 0 is the
preamble, and no other byte of the body is known. That the row of the format, as an operation, gives the same frame is the
model's choice (log entry 8). -/
def Obligations.EncodeLegacyCipherGivesTheCannedFrame : Prop :=
  ∃ (body : List Byte) (cs : Byte), body = 0x02 :: Config.params.legacyTail.toList ∧ body.length = 21 ∧
    cs.toNat = byteSum body % 256 ∧
    ∀ (r : Response) (s : State),
      exec (.encodeLegacyCipher r) s = .next { s with returned := .frame (body ++ [cs]) } ∧
      exec .frameRspLegacy s = .next { s with returned := .frame (body ++ [cs]) }

/-- R87: the shape tag selects the encoder. -/
def Obligations.EncodeResponseDispatchesOnTheShape : Prop :=
  ∀ (r : Response) (s : State),
    (r.shape = .usual → exec (.encodeResponse r) s = exec (.encodeUsual r) s ∧
      (r.payload.length ≤ 241 → ∃ t, exec (.encodeResponse r) s = .next t)) ∧
    (r.shape = .cpuID → exec (.encodeResponse r) s = exec (.encodeCpuID r) s ∧
      ∃ t, exec (.encodeResponse r) s = .next t) ∧
    (r.shape = .legacyCipher → exec (.encodeResponse r) s = exec (.encodeLegacyCipher r) s ∧
      ∃ t, exec (.encodeResponse r) s = .next t)

/-- Properties of every encoder (derived in R91): byte 0 is the preamble, the last byte the sum of all before it, and
for all shapes but `LegacyCipher` byte 2 the length of the frame, byte 1 `0x01` and byte 3 `0x00`. -/
def Obligations.EveryEncodedFrameIsSealed : Prop :=
  ∀ f : List Byte,
    ((∃ c, encodeCommand c = some f) ∨ (∃ p r, encodeResponse p r = some f) ∨
      (∃ d a, cpuidFrame d a = f)) →
    f[0]? = some 0x02 ∧
      (∃ c : Byte, f[f.length - 1]? = some c ∧ c.toNat = byteSum (f.take (f.length - 1)) % 256) ∧
      (((∃ c, encodeCommand c = some f) ∨ (∃ p r, r.shape ≠ .legacyCipher ∧ encodeResponse p r = some f)) →
        f[1]? = some 0x01 ∧ f[3]? = some 0x00 ∧ ∃ l : Byte, f[2]? = some l ∧ l.toNat = f.length)

-- The codec: decoders.

/-- R92: the five checks, and the fields of the record; every failure is "no frame". -/
def Obligations.DecodeCommandTakesTheFrame : Prop :=
  ∀ (buf : List Byte) (s : State), ∃ o : Option Command,
    exec (.decodeCommand buf) s = .next { s with returned := .command o } ∧
    ((∀ len, ¬ frameAt 15 buf len) → o = none) ∧
    ∀ len, frameAt 15 buf len → ∃ c : Command, o = some c ∧
      addrBytes c.dst = (buf.take 8).drop 4 ∧ addrBytes c.src = (buf.take 12).drop 8 ∧
      (∃ hi lo, buf[12]? = some hi ∧ buf[13]? = some lo ∧ c.code = codeFromBytes hi lo) ∧
      c.payload = (buf.take (len - 1)).drop 14 ∧ c.payload.length = len - 15

/-- R93 under both policies: the five checks, and the fields of the record; the shape is `Usual`, and the error flag is
byte 12 under `Faithful` and `false` under `AlwaysFalse`. Exec decodes with the machine's own policy, which is open. -/
def Obligations.DecodeResponseTakesTheFrame : Prop :=
  ∀ (p : Params) (buf : List Byte) (s : State), ∃ o : Option Response, decodeResponse p buf = o ∧
    exec (.decodeResponse buf) s = .next { s with returned := .response (decodeResponse Config.params buf) } ∧
    ((∀ len, ¬ frameAt 14 buf len) → o = none) ∧
    ∀ len, frameAt 14 buf len → ∃ r : Response, o = some r ∧
      addrBytes r.dst = (buf.take 8).drop 4 ∧ addrBytes r.src = (buf.take 12).drop 8 ∧ r.shape = .usual ∧
      (∃ e : Byte, buf[12]? = some e ∧ (p.errFlagPolicy = .alwaysFalse → r.error = false) ∧
        (p.errFlagPolicy = .faithful → (r.error = true ↔ e ≠ 0x00))) ∧
      r.payload = (buf.take (len - 1)).drop 13 ∧ r.payload.length = len - 14

/-- R94: the first of the five conditions that fails, in the table's order; none exactly when the decoder of that kind
takes a frame (R92, R93). -/
def Obligations.DecodeReasonNamesTheFirstFailure : Prop :=
  ∀ (kind : FrameKind) (buf : List Byte) (s : State), ∃ o : Option Reason,
    exec (.decodeReason kind buf) s = .next { s with returned := .reason o } ∧
    (o = some .undersized ↔ buf.length < kindMin kind) ∧
    (o = some .badPreamble ↔ kindMin kind ≤ buf.length ∧ buf[0]? ≠ some 0x02) ∧
    (o = some .badLength ↔ kindMin kind ≤ buf.length ∧ buf[0]? = some 0x02 ∧
      ∃ l : Byte, buf[2]? = some l ∧ l.toNat < kindMin kind) ∧
    (o = some .truncated ↔ kindMin kind ≤ buf.length ∧ buf[0]? = some 0x02 ∧
      ∃ l : Byte, buf[2]? = some l ∧ kindMin kind ≤ l.toNat ∧ buf.length < l.toNat) ∧
    (o = some .badChecksum ↔ kindMin kind ≤ buf.length ∧ buf[0]? = some 0x02 ∧
      ∃ l c : Byte, buf[2]? = some l ∧ kindMin kind ≤ l.toNat ∧ l.toNat ≤ buf.length ∧
        buf[l.toNat - 1]? = some c ∧ c.toNat ≠ byteSum (buf.take (l.toNat - 1)) % 256) ∧
    (o = none ↔ ∃ len, frameAt (kindMin kind) buf len) ∧
    (kind = .cmd → (o = none ↔ decodeCommand buf ≠ none)) ∧
    (kind = .rsp → ∀ p, o = none ↔ decodeResponse p buf ≠ none)

/-- The rows of the formats `CMD` and `RSP_USUAL`, which as operations are the model's choice (log entry 8): they complete
on every buffer, with what the format's decoder finds and the frame its encoder makes of that. For a Command that frame
is the frame decoded exactly when bytes 1 and 3 hold the values the encoders write (derived in R95 (c)); for a Usual
Response, under either policy, exactly when besides byte 12 is the one the encoder writes for the flag reported. -/
def Obligations.FormatRowsDecodeAndEncodeBack : Prop :=
  ∀ (buf : List Byte) (s : State),
    exec (.frameCmd buf) s = .next { s with
      returned := .cmdFormat (decodeCommand buf) ((decodeCommand buf).bind encodeCommand) } ∧
    exec (.frameRspUsual buf) s = .next { s with
      returned := .rspFormat (decodeResponse Config.params buf)
        ((decodeResponse Config.params buf).bind encodeUsual) } ∧
    (∀ len, frameAt 15 buf len → ∃ g, (decodeCommand buf).bind encodeCommand = some g ∧
      (g = buf.take len ↔ buf[1]? = some 0x01 ∧ buf[3]? = some 0x00)) ∧
    ∀ (p : Params) (len : Nat), frameAt 14 buf len → ∃ (g : List Byte) (r : Response),
      decodeResponse p buf = some r ∧ (decodeResponse p buf).bind encodeUsual = some g ∧ g.length = len ∧
        (g = buf.take len ↔ buf[1]? = some 0x01 ∧ buf[3]? = some 0x00 ∧
          buf[12]? = some (if r.error then 0x01 else 0x00))

/-- Round trip of a Command (derived in R95 (a)): every field, when the code is canonical. -/
def Obligations.CommandRoundTrip : Prop :=
  ∀ c : Command, c.payload.length ≤ 240 →
    ∃ f, encodeCommand c = some f ∧ ∃ d, decodeCommand f = some d ∧
      d.dst = c.dst ∧ d.src = c.src ∧ d.payload = c.payload ∧ codeToBytes d.code = codeToBytes c.code ∧
      (codeCanonical c.code = true → d = c)

/-- Round trip of a Usual Response (derived in R95 (b)), under both policies of the error flag. -/
def Obligations.ResponseRoundTrip : Prop :=
  ∀ (p : Params) (r : Response), r.shape = .usual → r.payload.length ≤ 241 →
    ∃ f, encodeUsual r = some f ∧
      decodeResponse p f = some { r with error := r.error && decide (p.errFlagPolicy = .faithful) }

/-- Single-byte corruption (derived in R96): in a buffer that is exactly one frame long, changing one byte before the
checksum, other than the length byte, makes both decoders find no frame. -/
def Obligations.SingleByteCorruptionIsRejected : Prop :=
  ∀ (p : Params) (buf : List Byte) (k : Nat) (b : Byte), k + 1 < buf.length → k ≠ 2 → buf[k]? ≠ some b →
    (frameAt 15 buf buf.length → decodeCommand (buf.set k b) = none) ∧
    (frameAt 14 buf buf.length → decodeResponse p (buf.set k b) = none)

/-- A blind spot of the checksum (derived in R97): a Command frame with its two addresses exchanged decodes without
complaint, to the Command with its addresses exchanged. -/
def Obligations.ExchangedAddressesGoUndetected : Prop :=
  ∀ (a b : List Byte) (x y : Addr) (c : Command), a.length = 4 →
    decodeCommand (a ++ addrBytes x ++ addrBytes y ++ b) = some c →
      decodeCommand (a ++ addrBytes y ++ addrBytes x ++ b) = some { c with dst := y, src := x } ∧ c.dst = x ∧ c.src = y

-- The engine's steps.

/-- R100 and R101: in `IDLE`, with at most 240 payload bytes, a request on an open connection latches its operands,
flushes the link and starts the settle wait; with no connection it is answered at once. Elsewhere it has no step. -/
def Obligations.RequestOpensATransaction : Prop :=
  ∀ (code : Code) (dst : Addr) (pay : List Byte) (s : State),
    (s.phase = .idle → pay.length ≤ 240 → s.connOpen = true →
      exec (.request code dst pay) s = .next { s with
        resKind := .none, resCount := 0, reqCode := code, reqDst := dst, reqLen := BitVec.ofNat 8 pay.length,
        reqPay := pay ++ List.replicate (255 - pay.length) 0, expLen := BitVec.ofNat 8 (expectedResponseLen code),
        rxq := [], txq := [], tmr := 0, phase := .settle }) ∧
    (s.phase = .idle → pay.length ≤ 240 → s.connOpen = false →
      exec (.request code dst pay) s = .next { s with resKind := .noConnection, resCount := 0, phase := .done }) ∧
    (s.phase ≠ .idle → exec (.request code dst pay) s = .fault .requestOutsideIdle) ∧
    (s.phase = .idle → 240 < pay.length → exec (.request code dst pay) s = .refused .requestTooLong)

/-- R102 and R103: at the end of the settle wait the Command of the request registers, with the station as its source,
is encoded into `TXBUF`; what stands behind it there is not said (R26). A length above 240, which the invariant rules
out, has no encoding (R86). Elsewhere there is no step. -/
def Obligations.SettleDoneBuildsTheCommand : Prop :=
  ∀ s : State,
    (s.phase = .settle → s.tmr = 20 → s.reqLen.toNat ≤ 240 → s.reqPay.length = 255 →
      ∃ f rest, encodeCommand ⟨s.reqDst, ⟨0, 0, 0, 0⟩, s.reqCode, s.reqPay.take s.reqLen.toNat⟩ = some f ∧
        f.length = 15 + s.reqLen.toNat ∧
        exec .settleDone s = .next { s with
          txBuf := f ++ rest, txLen := BitVec.ofNat 8 f.length, phase := .write }) ∧
    (s.phase = .settle → s.tmr = 20 → 240 < s.reqLen.toNat → s.reqPay.length = 255 →
      exec .settleDone s = .refused .commandTooLong) ∧
    (¬ (s.phase = .settle ∧ s.tmr = 20) → exec .settleDone s = .fault .settleDoneNotEnabled)

/-- R104 with R40: all bytes of the frame are handed to the link and the poll loop starts, or the write fails, a proper
part from the front of the frame having been handed over. The environment's answer is free. -/
def Obligations.WriteHandsTheFrameToTheLink : Prop :=
  ∀ s : State,
    (s.phase = .write → (nextDraw s).ok = true →
      exec .write s = .next { afterDraw s with
        txq := s.txq ++ s.txBuf.take s.txLen.toNat, elapsed := 0, pollTmr := 10, phase := .poll }) ∧
    (s.phase = .write → (nextDraw s).ok = false →
      ∃ k, (s.txBuf.take s.txLen.toNat ≠ [] → k < (s.txBuf.take s.txLen.toNat).length) ∧
        exec .write s = .next { afterDraw s with
          txq := s.txq ++ (s.txBuf.take s.txLen.toNat).take k, resKind := .ioError, resCount := 0, phase := .done }) ∧
    (s.phase ≠ .write → exec .write s = .fault .writeNotEnabled)

/-- R105: a poll in its order: a failing query, enough bytes, the timeout, the wait. The environment's answer is free. -/
def Obligations.PollTestsAvailabilityThenTimeout : Prop :=
  ∀ s : State,
    (s.phase = .poll → s.pollTmr = 10 →
      ((nextDraw s).ok = false →
        exec .poll s = .next { afterDraw s with resKind := .ioError, resCount := 0, phase := .done }) ∧
      ((nextDraw s).ok = true → s.expLen.toNat ≤ s.rxq.length →
        exec .poll s = .next { afterDraw s with phase := .read }) ∧
      ((nextDraw s).ok = true → s.rxq.length < s.expLen.toNat → 200 < s.elapsed →
        exec .poll s = .next { afterDraw s with resKind := .timeout, resCount := 0, phase := .done }) ∧
      ((nextDraw s).ok = true → s.rxq.length < s.expLen.toNat → s.elapsed ≤ 200 →
        exec .poll s = .next { afterDraw s with pollTmr := 0 })) ∧
    (¬ (s.phase = .poll ∧ s.pollTmr = 10) → exec .poll s = .fault .pollNotEnabled)

/-- R107 and R108: the read takes at most `EXP_LEN` bytes from the front of `RXQ` into `RXBUF`; a failing read is an I/O
error, fewer bytes a frame error with their count, bytes that decode to no frame a frame error with the count, and a
frame is the response. The number of bytes returned is the environment's, free up to what is there. -/
def Obligations.ReadTakesTheReply : Prop :=
  ∀ s : State,
    (s.phase = .read → ∀ m, m = min (nextDraw s).count (min s.expLen.toNat s.rxq.length) →
      ((nextDraw s).ok = false →
        exec .read s = .next { afterDraw s with resKind := .ioError, resCount := 0, phase := .done }) ∧
      ((nextDraw s).ok = true → m < s.expLen.toNat →
        exec .read s = .next { afterDraw s with
          rxq := s.rxq.drop m, rxBuf := s.rxq.take m ++ s.rxBuf.drop m, rxCnt := BitVec.ofNat 8 m,
          resKind := .frameError, resCount := m, phase := .done }) ∧
      ((nextDraw s).ok = true → m = s.expLen.toNat → decodeResponse Config.params (s.rxq.take m) = none →
        exec .read s = .next { afterDraw s with
          rxq := s.rxq.drop m, rxBuf := s.rxq.take m ++ s.rxBuf.drop m, rxCnt := BitVec.ofNat 8 m,
          resKind := .frameError, resCount := m, phase := .done }) ∧
      ∀ r, (nextDraw s).ok = true → m = s.expLen.toNat → decodeResponse Config.params (s.rxq.take m) = some r →
        exec .read s = .next { afterDraw s with
          rxq := s.rxq.drop m, rxBuf := s.rxq.take m ++ s.rxBuf.drop m, rxCnt := BitVec.ofNat 8 m,
          rsp := r, resKind := .ok, resCount := 0, phase := .done }) ∧
    (s.phase ≠ .read → exec .read s = .fault .readNotEnabled)

/-- R109 and R140: `Ack` returns to `IDLE` and restores nothing; the result registers keep their values. -/
def Obligations.AckReturnsToIdle : Prop :=
  ∀ s : State, (s.phase = .done → exec .ack s = .next { s with phase := .idle }) ∧
    (s.phase ≠ .done → exec .ack s = .fault .ackNotEnabled)

/-- R110: a millisecond passes while no engine step is enabled, and advances the timers of the phase; while one is
enabled, time does not move. -/
def Obligations.TickPassesOneMillisecond : Prop :=
  ∀ s : State,
    (s.phase = .idle ∨ s.phase = .done → exec .tick s = .next { s with now := s.now + 1 }) ∧
    (s.phase = .settle → s.tmr ≠ 20 → exec .tick s = .next { s with now := s.now + 1, tmr := s.tmr + 1 }) ∧
    (s.phase = .poll → s.pollTmr ≠ 10 →
      exec .tick s = .next { s with now := s.now + 1, elapsed := s.elapsed + 1, pollTmr := s.pollTmr + 1 }) ∧
    ((s.phase = .settle ∧ s.tmr = 20) ∨ s.phase = .write ∨ (s.phase = .poll ∧ s.pollTmr = 10) ∨ s.phase = .read →
      exec .tick s = .fault .tickNotEnabled)

/-- R133: an engine step that ends a transaction in an error writes `RES_KIND`, `RES_COUNT` and `PHASE`, and leaves
`RSP`, the request registers, the timers, `TXBUF`, the connection and time as they were. -/
def Obligations.ErrorsAreEnteredByResultAndPhaseAlone : Prop :=
  ∀ (i : Instr) (s t : State), i = .write ∨ i = .poll ∨ i = .read → exec i s = .next t → t.phase = .done →
    t.resKind ≠ .ok →
      (t.resKind = .ioError ∨ t.resKind = .timeout ∨ t.resKind = .frameError) ∧
      (t.resKind ≠ .frameError → t.resCount = 0) ∧
      t.rsp = s.rsp ∧ t.reqCode = s.reqCode ∧ t.reqDst = s.reqDst ∧ t.reqLen = s.reqLen ∧ t.reqPay = s.reqPay ∧
      t.expLen = s.expLen ∧ t.tmr = s.tmr ∧ t.elapsed = s.elapsed ∧ t.pollTmr = s.pollTmr ∧ t.txBuf = s.txBuf ∧
      t.txLen = s.txLen ∧ t.connOpen = s.connOpen ∧ t.now = s.now ∧ t.returned = s.returned

-- The link, its environment and the host's port.

/-- R39: both queues are emptied; there is no result and no failure. While a transaction is in flight nobody but the
engine touches the link (R51, U8): as an operation of its own the primitive is then refused, and runs otherwise, which is
the model's choice (log entry 13). -/
def Obligations.LinkFlushEmptiesBothQueues : Prop :=
  ∀ s : State, (busy s = false → exec .linkFlush s = .next { s with rxq := [], txq := [] }) ∧
    (busy s = true → exec .linkFlush s = .refused .linkInUse)

/-- R40: all bytes are appended to `TXQ`, in order, or a proper part of them from the front; the outcome and the number
are the environment's, and every admissible number is drawn by some answer. What a failing write of no bytes does (nothing)
is the model's choice (log entry 14), as is when the primitive runs as an operation of its own (log entry 13; U8). -/
def Obligations.LinkWriteAppendsAllOrAProperPart : Prop :=
  ∀ (bytes : List Byte) (s : State),
    (busy s = false →
      ((nextDraw s).ok = true →
        exec (.linkWrite bytes) s = .next { afterDraw s with txq := s.txq ++ bytes, returned := .written true }) ∧
      ((nextDraw s).ok = false → ∃ k, (bytes ≠ [] → k < bytes.length) ∧
        exec (.linkWrite bytes) s = .next { afterDraw s with
          txq := s.txq ++ bytes.take k, returned := .written false }) ∧
      ∀ k ds, k < bytes.length → s.draws = ⟨false, k⟩ :: ds →
        exec (.linkWrite bytes) s = .next { s with
          draws := ds, txq := s.txq ++ bytes.take k, returned := .written false }) ∧
    (busy s = true → exec (.linkWrite bytes) s = .refused .linkInUse)

/-- R41: the number of bytes in `RXQ`, or a failure, and the queue is unchanged; the outcome is the environment's. When
the primitive runs as an operation of its own is the model's choice (log entry 13; U8). -/
def Obligations.LinkAvailCountsAndKeeps : Prop :=
  ∀ s : State,
    (busy s = false →
      ((nextDraw s).ok = true →
        exec .linkAvail s = .next { afterDraw s with returned := .available (some s.rxq.length) }) ∧
      ((nextDraw s).ok = false → exec .linkAvail s = .next { afterDraw s with returned := .available none })) ∧
    (busy s = true → exec .linkAvail s = .refused .linkInUse)

/-- R42: at most `n` bytes are taken from the front of `RXQ`, or the read fails and takes none; the outcome and the
number are the environment's, and every admissible number is drawn by some answer. When the primitive runs as an operation
of its own is the model's choice (log entry 13; U8). -/
def Obligations.LinkReadConsumesAtMostTheBytesAsked : Prop :=
  ∀ (n : Nat) (s : State),
    (busy s = false →
      ((nextDraw s).ok = false → exec (.linkRead n) s = .next { afterDraw s with returned := .received none }) ∧
      ((nextDraw s).ok = true → ∃ m, m ≤ n ∧ m ≤ s.rxq.length ∧
        exec (.linkRead n) s = .next { afterDraw s with
          rxq := s.rxq.drop m, returned := .received (some (s.rxq.take m)) }) ∧
      ∀ m ds, m ≤ n → m ≤ s.rxq.length → s.draws = ⟨true, m⟩ :: ds →
        exec (.linkRead n) s = .next { s with
          draws := ds, rxq := s.rxq.drop m, returned := .received (some (s.rxq.take m)) }) ∧
    (busy s = true → exec (.linkRead n) s = .refused .linkInUse)

/-- R43: a byte arrives at the back of `RXQ`; the head byte of `TXQ`, if there is one, leaves. Enabled at any time. -/
def Obligations.EnvironmentStepsMoveTheQueues : Prop :=
  ∀ s : State,
    (∀ b : Byte, exec (.envDeliver b) s = .next { s with rxq := s.rxq ++ [b] }) ∧
    (s.txq = [] → exec .envDrain s = .next s) ∧
    (∀ b q, s.txq = b :: q → exec .envDrain s = .next { s with txq := q })

/-- R149 with R28 and R164: in `IDLE` the connection bit is set or cleared and nothing else changes; elsewhere the host
must not, and there is no meaning. -/
def Obligations.ConnectAndDisconnectInIdleOnly : Prop :=
  ∀ s : State,
    (s.phase = .idle → exec .connect s = .next { s with connOpen := true } ∧
      exec .disconnect s = .next { s with connOpen := false }) ∧
    (s.phase ≠ .idle → exec .connect s = .refused .connectOutsideIdle ∧
      exec .disconnect s = .refused .disconnectOutsideIdle)

-- Whole transactions.

/-- A whole transaction completes, and is the sequential procedure of R99: Execute and each of the six command rows, in
`IDLE` with at most 240 payload bytes, give back the result of that procedure and leave the link, the time and the
environment's choices as it does; the result registers hold the same result, `PHASE` is `IDLE` again, and the
connection and the plan of operations are untouched. That the environment acts by `turns` between the steps (log entry 5)
and that the call with its `Ack` is one step (log entry 6) are the model's choices. -/
def Obligations.TransactionsAreTheSequentialProcedure : Prop :=
  ∀ (i : Instr) (code : Code) (dst : Addr) (pay : List Byte) (s : State),
    transactionOf i = some (code, dst, pay) → s.phase = .idle → pay.length ≤ 240 →
      ∃ t, exec i s = .next t ∧
        t.returned = .result (sequentialExecute Config.params code dst pay s).1 ∧
        txResult t = some (sequentialExecute Config.params code dst pay s).1 ∧
        t.rxq = (sequentialExecute Config.params code dst pay s).2.rxq ∧
        t.txq = (sequentialExecute Config.params code dst pay s).2.txq ∧
        t.now = (sequentialExecute Config.params code dst pay s).2.now ∧
        t.draws = (sequentialExecute Config.params code dst pay s).2.draws ∧
        t.turns = (sequentialExecute Config.params code dst pay s).2.turns ∧
        t.freeCount = (sequentialExecute Config.params code dst pay s).2.freeCount ∧
        t.phase = .idle ∧ t.connOpen = s.connOpen ∧ t.agenda = s.agenda

/-- Where a transaction has no step: outside `IDLE` (R100, R163), and above 240 payload bytes. -/
def Obligations.TransactionsStopOutsideIdleOrTooLong : Prop :=
  ∀ (i : Instr) (code : Code) (dst : Addr) (pay : List Byte) (s : State), transactionOf i = some (code, dst, pay) →
    (s.phase ≠ .idle → exec i s = .fault .requestOutsideIdle) ∧
    (s.phase = .idle → 240 < pay.length → exec i s = .refused .requestTooLong)

/-- R129: with no open connection a request, and so a whole transaction, is answered at once and nothing is touched but
the result. That a whole transaction with its `Ack` is one step is the model's choice (log entry 6). -/
def Obligations.NoConnectionTouchesNothing : Prop :=
  ∀ (i : Instr) (code : Code) (dst : Addr) (pay : List Byte) (s : State),
    s.phase = .idle → pay.length ≤ 240 → s.connOpen = false →
      exec (.request code dst pay) s = .next { s with resKind := .noConnection, resCount := 0, phase := .done } ∧
      (transactionOf i = some (code, dst, pay) → exec i s = .next { s with
        resKind := .noConnection, resCount := 0, returned := .result (.err .noConnection) })

/-- What a transaction on an open connection leaves in the registers (R22, R100, R108, R113): the request registers hold
its operands, and `RSP` is the response of a successful one and untouched otherwise. That the call is one step is the
model's choice (log entry 6). -/
def Obligations.TransactionsWriteTheirRegisters : Prop :=
  ∀ (i : Instr) (code : Code) (dst : Addr) (pay : List Byte) (s t : State),
    transactionOf i = some (code, dst, pay) → s.connOpen = true → exec i s = .next t →
      t.reqCode = code ∧ t.reqDst = dst ∧ t.reqLen.toNat = pay.length ∧ t.reqPay = payloadBuffer pay ∧
      t.expLen.toNat = expectedResponseLen code ∧
      (∀ r, t.returned = .result (.ok r) → t.rsp = r ∧ t.resKind = .ok ∧ t.resCount = 0) ∧
      (∀ e, t.returned = .result (.err e) → t.rsp = s.rsp)

/-- A transaction with an unknown code (derived in R112) ends in a frame error of no bytes or an I/O error, never in a
response and never in a timeout, 20 ms after the request. That the call is one step is the model's choice (log entry 6).
-/
def Obligations.UnknownCodesNeverSucceed : Prop :=
  ∀ (i : Instr) (hi lo : Byte) (dst : Addr) (pay : List Byte) (s t : State),
    transactionOf i = some (.unknown hi lo, dst, pay) → s.connOpen = true → exec i s = .next t →
      (t.returned = .result (.err (.frameError 0)) ∨ t.returned = .result (.err .ioError)) ∧ t.now = s.now + 20

/-- The engine cannot hang (derived in R111), for every positive poll interval and any settle time and timeout: every
transaction the host may start reaches its result, within the bound on time. That the call ends in `IDLE`, its `Ack`
included, where R111 speaks of `DONE`, is the model's choice (log entry 6). -/
def Obligations.TransactionsEndWithinTheBound : Prop :=
  ∀ (p : Params) (code : Code) (dst : Addr) (pay : List Byte) (s : State),
    0 < p.tPoll → s.phase = .idle → pay.length ≤ 240 →
      ∃ r t, call p code dst pay s = .next (r, t) ∧ t.phase = .idle ∧
        t.now ≤ s.now + p.tSettle + p.tPoll * (p.tTimeout / p.tPoll + 1)

/-- A link that stays silent (derived in R106): with a table code, every answer of the link a success and no byte ever
delivered, the transaction ends with a timeout exactly at the bound, for every timing. The lists `draws` and `turns`
are the model's form of the environment (log entry 5). -/
def Obligations.SilentLinkTimesOutAtTheBound : Prop :=
  ∀ (p : Params) (code : Code) (dst : Addr) (pay : List Byte) (s : State),
    0 < p.tPoll → s.phase = .idle → pay.length ≤ 240 → s.connOpen = true → (∀ hi lo, code ≠ .unknown hi lo) →
    pollBound p + 1 ≤ s.draws.length → (∀ d ∈ s.draws, d.ok = true) →
    stepBound p ≤ s.turns.length → (∀ u ∈ s.turns, u.deliver = []) →
      ∃ t, call p code dst pay s = .next (.err .timeout, t) ∧
        t.now = s.now + p.tSettle + p.tPoll * (p.tTimeout / p.tPoll + 1)

/-- A reply that arrives right after the flush is the answer (derived in R166 and R171): the first poll finds it, and the
transaction succeeds `T_SETTLE_MS` after the request, whatever the reply's addresses are (R46). The lists `draws` and
`turns` are the model's form of the environment (log entry 5). -/
def Obligations.ReplyAfterTheFlushIsTheAnswer : Prop :=
  ∀ (p : Params) (code : Code) (dst : Addr) (pay reply : List Byte) (r : Response) (s : State) (ts : List EnvTurn)
    (n : Nat) (ds : List Draw) (w a : Nat),
    0 < p.tPoll → s.phase = .idle → pay.length ≤ 240 → s.connOpen = true → (∀ hi lo, code ≠ .unknown hi lo) →
    reply.length = expectedResponseLen code → decodeResponse p reply = some r →
    s.turns = ⟨reply, n⟩ :: ts → p.tSettle + 3 ≤ ts.length → (∀ u ∈ ts, u.deliver = []) →
    s.draws = ⟨true, w⟩ :: ⟨true, a⟩ :: ⟨true, reply.length⟩ :: ds →
      ∃ t, call p code dst pay s = .next (.ok r, t) ∧ t.now = s.now + p.tSettle ∧ t.rxq = [] ∧ t.rsp = r ∧
        t.draws = ds

-- The acceptance test.

/-- The acceptance test is the program of R126 over the sequential procedures of R99 (sequentialAcceptanceTest): from
`IDLE` it runs to its end, gives back that program's report, and leaves the link, the time and the environment's choices
as that program does. So the report is success, an engine's error, or a verification failure that names the initial check
with 0 expected, or channel `i` with `1 << i`, and another byte read; with no connection it is that error at once, and the
link and time are untouched. Outside `IDLE` it has no step. That all of it is one step which ends in `IDLE` (log entries 6
and 19), with the environment acting by `turns` (log entry 5), and that payload parameters are cut to 240 bytes (log entry
12), are the model's choices. -/
def Obligations.AcceptanceTestReports : Prop :=
  ∀ (a : Addr) (s : State),
    (s.phase = .idle → ∃ rep t, exec (.acceptanceTest a) s = .next t ∧ t.returned = .report rep ∧ t.phase = .idle ∧
      t.agenda = s.agenda ∧ t.connOpen = s.connOpen ∧
      (rep = (sequentialAcceptanceTest Config.params a s).1 ∧
        t.rxq = (sequentialAcceptanceTest Config.params a s).2.rxq ∧
        t.txq = (sequentialAcceptanceTest Config.params a s).2.txq ∧
        t.now = (sequentialAcceptanceTest Config.params a s).2.now ∧
        t.draws = (sequentialAcceptanceTest Config.params a s).2.draws ∧
        t.turns = (sequentialAcceptanceTest Config.params a s).2.turns ∧
        t.freeCount = (sequentialAcceptanceTest Config.params a s).2.freeCount) ∧
      (s.connOpen = false → rep = .engineError .noConnection ∧ t.now = s.now ∧ t.rxq = s.rxq ∧ t.txq = s.txq) ∧
      (rep = .success ∨ (∃ e, rep = .engineError e) ∨
        (∃ x : Byte, x ≠ 0x00 ∧ rep = .verificationFailure .initialCheck 0x00 x) ∨
        ∃ (i : Fin 4) (e x : Byte), e.toNat = 2 ^ i.val ∧ x ≠ e ∧ rep = .verificationFailure (.channel i) e x)) ∧
    (s.phase ≠ .idle → exec (.acceptanceTest a) s = .fault .requestOutsideIdle)

/-- A successful acceptance test takes at least 18 settle times and 8 relay delays (derived in R125), whatever the timing
and the payloads are; the machine's own runs with `Config.params`. That the test is one step is the model's choice (log
entries 6 and 19). -/
def Obligations.AcceptanceSuccessTakesItsTime : Prop :=
  (∀ (a : Addr) (s : State), exec (.acceptanceTest a) s = acceptanceTest Config.params a s) ∧
  ∀ (p : Params) (a : Addr) (s t : State), 0 < p.tPoll → acceptanceTest p a s = .next t →
    t.returned = .report .success →
      s.now + (18 * p.tSettle + 8 * p.tRelay) ≤ t.now ∧ t.resKind = .ok

-- The step, the encodings, status and byte order.

/-- A step runs the decoded operation on the state past its bytes; bytes that are no operation have no meaning. -/
def Obligations.StepRunsTheDecodedOperation : Prop :=
  ∀ s : State,
    (∀ i rest, decode s.agenda = .ok (i, rest) → step s = exec i { s with agenda := rest }) ∧
    (∀ e, s.agenda ≠ [] → decode s.agenda = .error e → step s = .refused (.undecodable e))

/-- With no operation planned the engine's enabled step is taken, and time passes only where there is none (R110). -/
def Obligations.UnplannedStepsAreUrgent : Prop :=
  ∀ s : State, s.agenda = [] →
    (s.phase = .settle → s.tmr = 20 → step s = exec .settleDone s) ∧
    (s.phase = .write → step s = exec .write s) ∧
    (s.phase = .poll → s.pollTmr = 10 → step s = exec .poll s) ∧
    (s.phase = .read → step s = exec .read s) ∧
    (engineDue Config.params s = false → step s = exec .tick s ∧ ∃ t, step s = .next t ∧ t.now = s.now + 1)

/-- Words written out from the spec's encodings, and a few of the model's own selectors (log entry 3), decode to their
operations: the Commands of vectors V21 to V25 and T4. -/
def Obligations.WrittenOutWordsDecode : Prop :=
  decode [0x02, 0x01, 0x0F, 0x00, 0x14, 0x03, 0x01, 0x00, 0x00, 0x00, 0x00, 0x00, 0xFF, 0x04, 0x2D] =
    .ok (.readAddress ⟨0x14, 0x03, 0x01, 0x00⟩ [], []) ∧
  decode [0x02, 0x01, 0x0F, 0x00, 0x14, 0x03, 0x01, 0x00, 0x00, 0x00, 0x00, 0x00, 0x01, 0x01, 0x2C] =
    .ok (.readInput ⟨0x14, 0x03, 0x01, 0x00⟩ [], []) ∧
  decode [0x02, 0x01, 0x0F, 0x00, 0x14, 0x03, 0x01, 0x00, 0x00, 0x00, 0x00, 0x00, 0x40, 0x0A, 0x74] =
    .ok (.readFirmwareVersion ⟨0x14, 0x03, 0x01, 0x00⟩ [], []) ∧
  decode [0x02, 0x01, 0x11, 0x00, 0x14, 0x03, 0x01, 0x00, 0x00, 0x00, 0x00, 0x00, 0xFF, 0x01, 0x02, 0x01, 0x2F] =
    .ok (.setOutput ⟨0x14, 0x03, 0x01, 0x00⟩ [0x02, 0x01], []) ∧
  decode [0x02, 0x01, 0x13, 0x00, 0x14, 0x03, 0x01, 0x00, 0x00, 0x00, 0x00, 0x00, 0xFF, 0x03, 0x14, 0x03, 0x01, 0x00,
      0x48] = .ok (.setAddress ⟨0x14, 0x03, 0x01, 0x00⟩ [0x14, 0x03, 0x01, 0x00], []) ∧
  decode [0x02, 0x01, 0x10, 0x00, 0x14, 0x03, 0x01, 0x00, 0x00, 0x00, 0x00, 0x00, 0x12, 0x34, 0xAA, 0x1B] =
    .ok (.unknown 0x12 0x34 ⟨0x14, 0x03, 0x01, 0x00⟩ [0xAA], []) ∧
  decode [0x47, 0x42] = .ok (.tick, [0x42])

/-- Decoding inverts encoding for every well-formed operation, every operand at every value, whatever follows: the six
command rows through the spec's own frame (R86, R92), the others through the model's selectors (log entry 3). -/
def Obligations.DecodeInvertsEncode : Prop :=
  ∀ (i : Instr) (rest : List Byte), i.wf = true → decode (encode i ++ rest) = .ok (i, rest)

/-- The decoder gives well-formed operations only, and takes bytes. The selectors (log entry 3) and what well-formed means
(log entry 20) are the model's choices; of a Command frame it is the bound on its payload (R60) and a code that is not
another row's (R66). -/
def Obligations.DecodedOperationsAreWellFormed : Prop :=
  ∀ (l : List Byte) (i : Instr) (rest : List Byte), decode l = .ok (i, rest) → i.wf = true ∧ rest.length < l.length

/-- R24 with R21: the numeric codes, and the derived flags. -/
def Obligations.StatusCodesAndFlags : Prop :=
  (phaseCode .idle = 0 ∧ phaseCode .settle = 1 ∧ phaseCode .write = 2 ∧ phaseCode .poll = 3 ∧ phaseCode .read = 4 ∧
    phaseCode .done = 5) ∧
  (resKindCode .none = 0 ∧ resKindCode .ok = 1 ∧ resKindCode .ioError = 2 ∧ resKindCode .timeout = 3 ∧
    resKindCode .frameError = 4 ∧ resKindCode .noConnection = 5) ∧
  ∀ s : State, (busy s = true ↔ s.phase ≠ .idle ∧ s.phase ≠ .done) ∧ (resultReady s = true ↔ s.phase = .done)

/-- Big-endian order (R38): the code's high byte is the one at the lower offset, and an address's first byte is the most
significant of the serial number. -/
def Obligations.ByteOrderIsBigEndian : Prop :=
  (∀ v : BitVec 16, be16 (hi8 v) (lo8 v) = v.toNat) ∧
  (∀ c : Code, codeCanonical c = true → (∀ hi lo, c ≠ .unknown hi lo) →
    be16 (codeToBytes c).1 (codeToBytes c).2 = (codeValue16 c).toNat) ∧
  (∀ a : Addr, be32 a / 2 ^ 24 = a.b0.toNat ∧ be32 a / 2 ^ 16 % 256 = a.b1.toNat ∧ be32 a / 2 ^ 8 % 256 = a.b2.toNat ∧
    be32 a % 256 = a.b3.toNat) ∧
  (∀ x y : Addr, be32 x = be32 y → x = y) ∧ be32 ⟨0x14, 0x03, 0x01, 0x00⟩ = 335741184
end

