-- ==== Sys2Proof/Laws/Codec.lean ====
section
/-! SUPPORT. Small lemmas of the codec: lengths, slices, the checks of a decoder, and the sum a checksum is. -/
namespace Sys2Proof.Machine

/-- An address is `ADDR_BYTES` bytes (R9, R13). -/
theorem addrBytes_length_param (a : Addr) : (addrBytes a).length = Config.addrBytes := rfl

@[simp] theorem addrBytes_length (a : Addr) : (addrBytes a).length = 4 := rfl

@[simp] theorem addrBytes_eq : Config.addrBytes = 4 := rfl

-- The definitions that read a named parameter, at the parameter's value.
theorem decodeCommand_eq (buf : List Byte) : decodeCommand buf = (frameLength 15 buf).map fun len =>
    { dst := addrAt buf 4, src := addrAt buf 8, code := codeFromBytes (byteAt buf 12) (byteAt buf 13)
      payload := slice buf 14 (len - 1) } := rfl

theorem decodeResponse_eq (p : Params) (buf : List Byte) : decodeResponse p buf = (frameLength 14 buf).map fun len =>
    { dst := addrAt buf 4, src := addrAt buf 8, error := errorFlag p (byteAt buf 12), shape := .usual
      payload := slice buf 13 (len - 1) } := rfl

theorem codeCanonical_unknown (hi lo : Byte) : codeCanonical (.unknown hi lo) =
    !([0x0101, 0xFF01, 0xFF03, 0xFF04, 0x400A].contains (be16 hi lo)) := rfl

-- The table's bytes and values as numbers, so that no proof unfolds a parameter (R66, R76, R77).
@[simp] theorem codeToBytes_readInput : codeToBytes .readInput = (0x01, 0x01) := rfl
@[simp] theorem codeToBytes_setOutput : codeToBytes .setOutput = (0xFF, 0x01) := rfl
@[simp] theorem codeToBytes_setAddress : codeToBytes .setAddress = (0xFF, 0x03) := rfl
@[simp] theorem codeToBytes_readAddress : codeToBytes .readAddress = (0xFF, 0x04) := rfl
@[simp] theorem codeToBytes_readFirmwareVersion : codeToBytes .readFirmwareVersion = (0x40, 0x0A) := rfl
@[simp] theorem codeToBytes_unknown (hi lo : Byte) : codeToBytes (.unknown hi lo) = (hi, lo) := rfl
@[simp] theorem codeValue16_readInput : codeValue16 .readInput = 0x0101 := rfl
@[simp] theorem codeValue16_setOutput : codeValue16 .setOutput = 0xFF01 := rfl
@[simp] theorem codeValue16_setAddress : codeValue16 .setAddress = 0xFF03 := rfl
@[simp] theorem codeValue16_readAddress : codeValue16 .readAddress = 0xFF04 := rfl
@[simp] theorem codeValue16_readFirmwareVersion : codeValue16 .readFirmwareVersion = 0x400A := rfl
@[simp] theorem codeValue16_unknown (hi lo : Byte) : codeValue16 (.unknown hi lo) = 0xFFFF := rfl

@[simp] theorem header_length (n : Nat) : (header n).length = 4 := rfl

@[simp] theorem sealFrame_length (f : List Byte) : (sealFrame f).length = f.length + 1 := by simp [sealFrame]

@[simp] theorem slice_zero (b : List Byte) (j : Nat) : slice b 0 j = b.take j := rfl

@[simp] theorem slice_length (b : List Byte) (i j : Nat) : (slice b i j).length = min j b.length - i := by
  simp [slice]

theorem payloadBuffer_length {pay : List Byte} (h : pay.length ≤ 255) : (payloadBuffer pay).length = 255 := by
  simp [payloadBuffer, zeros, Config.payloadCap]; omega

theorem payloadBuffer_take (pay : List Byte) : (payloadBuffer pay).take pay.length = pay := by
  simp [payloadBuffer]

theorem payloadBuffer_zero {pay : List Byte} {i : Nat} (h : pay.length ≤ i) : byteAt (payloadBuffer pay) i = 0 := by
  unfold byteAt payloadBuffer zeros
  rw [List.getD_eq_getElem?_getD, List.getElem?_append_right h]
  by_cases hi : i - pay.length < Config.payloadCap - pay.length
  · simp [hi]
  · simp [hi]

@[simp] theorem overwrite_length {buf v : List Byte} (h : v.length ≤ buf.length) :
    (overwrite buf v).length = buf.length := by
  simp [overwrite]; omega

/-- The sum of two strings' checksums. -/
theorem checksum_foldl (b : List Byte) (s : Byte) : b.foldl (fun s x => s + x) s = s + checksum b := by
  induction b generalizing s with
  | nil => simp [checksum]
  | cons x b ih => simp only [List.foldl_cons, checksum]; rw [ih, ih (0 + x)]; simp [BitVec.add_assoc]

@[simp] theorem checksum_nil : checksum [] = 0 := rfl

@[simp] theorem checksum_cons (x : Byte) (b : List Byte) : checksum (x :: b) = x + checksum b := by
  conv_lhs => unfold checksum
  rw [List.foldl_cons, checksum_foldl]; simp

@[simp] theorem checksum_append (a b : List Byte) : checksum (a ++ b) = checksum a + checksum b := by
  induction a with
  | nil => simp
  | cons x a ih => simp [ih, BitVec.add_assoc]

/-- A Command of at most 240 payload bytes has a frame, of length `15 + data_len` (R86). -/
theorem encodeCommand_some {c : Command} (h : c.payload.length ≤ 240) :
    ∃ f, encodeCommand c = some f ∧ f.length = 15 + c.payload.length := by
  refine ⟨_, if_neg (by simp [Config.cmdDataMax]; omega), ?_⟩
  simp; omega

/-- `EncodeCommand` refuses exactly the payloads above 240 bytes (R86). -/
theorem encodeCommand_none {c : Command} : encodeCommand c = none ↔ 240 < c.payload.length := by
  simp [encodeCommand, Config.cmdDataMax]

/-- A Usual Response of at most 241 payload bytes has a frame, of length `14 + data_len` (R88). -/
theorem encodeUsual_some {r : Response} (h : r.payload.length ≤ 241) :
    ∃ f, encodeUsual r = some f ∧ f.length = 14 + r.payload.length := by
  refine ⟨_, if_neg (by simp [Config.rspDataMax]; omega), ?_⟩
  simp; omega

/-- The five checks of a decoder (R92, R93). -/
theorem frameLength_eq_some {min len : Nat} {buf : List Byte} :
    frameLength min buf = some len ↔
      min ≤ buf.length ∧ byteAt buf 0 = Config.preamble ∧ (byteAt buf 2).toNat = len ∧ min ≤ len ∧ len ≤ buf.length ∧
        checksum (buf.take (len - 1)) = byteAt buf (len - 1) := by
  unfold frameLength
  split
  · simp; omega
  · split
    · rename_i h; simp [h]
    · split
      · simp; omega
      · split
        · simp; omega
        · split
          · rename_i h
            simp only [slice_zero] at h
            simp only [reduceCtorEq, false_iff]
            rintro ⟨-, -, rfl, -, -, h'⟩
            exact h h'
          · rename_i h1 h2 h3 h4 h5
            simp only [slice_zero, ne_eq, not_not] at h2 h5
            simp only [Option.some.injEq]
            constructor
            · rintro rfl; exact ⟨by omega, h2, rfl, by omega, by omega, h5⟩
            · rintro ⟨-, -, h, -⟩; exact h

/-- What a decoded Response is (R93). -/
theorem decodeResponse_some {p : Params} {buf : List Byte} {r : Response} (h : decodeResponse p buf = some r) :
    r.shape = .usual ∧ r.payload.length + 14 ≤ buf.length := by
  simp only [decodeResponse, Option.map_eq_some_iff, frameLength_eq_some] at h
  obtain ⟨len, ⟨-, -, -, h1, h2, -⟩, rfl⟩ := h
  simp [Config.rspOverhead] at h1 ⊢
  omega

/-- Fewer bytes than the minimum are no frame (R93). -/
theorem decodeResponse_short {p : Params} {buf : List Byte} (h : buf.length < 14) : decodeResponse p buf = none := by
  simp [decodeResponse, frameLength, Config.rspOverhead, h]

/-- The byte at an offset inside a string. -/
theorem getElem?_byteAt {b : List Byte} {i : Nat} (h : i < b.length) : b[i]? = some (byteAt b i) := by
  simp [byteAt, h]

theorem byteAt_append_left {a b : List Byte} {i : Nat} (h : i < a.length) : byteAt (a ++ b) i = byteAt a i := by
  simp [byteAt, List.getD_eq_getElem?_getD, List.getElem?_append_left h]

theorem byteAt_append_right {a b : List Byte} {i : Nat} (h : a.length ≤ i) :
    byteAt (a ++ b) i = byteAt b (i - a.length) := by
  simp [byteAt, List.getD_eq_getElem?_getD, List.getElem?_append_right h]

/-- Two bytes are read back from their 16-bit value (R38). -/
theorem be16_inj {a b c d : Byte} (h : be16 a b = be16 c d) : a = c ∧ b = d := by
  unfold be16 at h
  constructor <;> apply BitVec.eq_of_toNat_eq <;> omega

theorem be16_eq_iff {hi lo a b : Byte} {n : Nat} (hn : be16 a b = n) : be16 hi lo = n ↔ (hi, lo) = (a, b) := by
  subst hn
  constructor
  · intro h; have := be16_inj h; simp [this]
  · intro h; simp at h; simp [h]

/-- `CodeFromBytes` by the pairs of bytes (R66, R74). -/
theorem codeFromBytes_pairs (hi lo : Byte) : codeFromBytes hi lo =
    if (hi, lo) = (0x01, 0x01) then .readInput
    else if (hi, lo) = (0xFF, 0x01) then .setOutput
    else if (hi, lo) = (0xFF, 0x03) then .setAddress
    else if (hi, lo) = (0xFF, 0x04) then .readAddress
    else if (hi, lo) = (0x40, 0x0A) then .readFirmwareVersion
    else .unknown hi lo := by
  unfold codeFromBytes
  simp only [be16_eq_iff (show be16 0x01 0x01 = Config.codeReadInput.toNat from rfl),
    be16_eq_iff (show be16 0xFF 0x01 = Config.codeSetOutput.toNat from rfl),
    be16_eq_iff (show be16 0xFF 0x03 = Config.codeSetAddress.toNat from rfl),
    be16_eq_iff (show be16 0xFF 0x04 = Config.codeReadAddress.toNat from rfl),
    be16_eq_iff (show be16 0x40 0x0A = Config.codeReadFirmwareVersion.toNat from rfl)]

/-- A sealed frame of declared length `n`, whatever follows it, passes both decoders' checks (R91, R92, R93). -/
theorem frameLength_sealFrame {min n : Nat} {t rest : List Byte} (hn : min ≤ n) (hn2 : n ≤ 255)
    (ht : t.length + 5 = n) : frameLength min (sealFrame (header n ++ t) ++ rest) = some n := by
  rw [frameLength_eq_some]
  have hlen : (sealFrame (header n ++ t)).length = n := by simp; omega
  refine ⟨by simp; omega, rfl, ?_, hn, by simp; omega, ?_⟩
  · show (BitVec.ofNat 8 n).toNat = n
    simp; omega
  · rw [List.take_append_of_le_length (by omega)]
    rw [byteAt_append_left (by omega)]
    unfold sealFrame
    rw [byteAt_append_right (by simp; omega), List.take_append_of_le_length (by simp; omega),
      List.take_of_length_le (by simp; omega)]
    have : n - 1 - (header n ++ t).length = 0 := by simp; omega
    rw [this]; rfl

end Sys2Proof.Machine
end

