-- ==== Sys2Proof/Laws/Decode.lean ====
section
/-! SUPPORT. Each operand reader of Decode.lean inverts its writer, whatever follows. -/
namespace Sys2Proof

open Machine

theorem takeBytes_end (rest : List Byte) : takeBytes (0x00 :: rest) = some ([], rest) := by
  unfold takeBytes; simp

theorem takeBytes_more (b : Byte) (rest : List Byte) :
    takeBytes (0x01 :: b :: rest) = (takeBytes rest).map fun x => (b :: x.1, x.2) := by
  conv_lhs => unfold takeBytes
  simp

@[simp] theorem takeBytes_putBytes (b rest : List Byte) : takeBytes (putBytes b ++ rest) = some (b, rest) := by
  induction b with
  | nil => exact takeBytes_end rest
  | cons x b ih => simp only [putBytes, List.cons_append, takeBytes_more, ih, Option.map_some]

@[simp] theorem takeNat_putNat (n : Nat) (rest : List Byte) : takeNat (putNat n ++ rest) = some (n, rest) := by
  induction n with
  | zero => simp [putNat, takeNat]
  | succ n ih => simp [putNat, takeNat, ih]

@[simp] theorem takeAddr_addrBytes (a : Addr) (rest : List Byte) : takeAddr (addrBytes a ++ rest) = some (a, rest) := rfl

@[simp] theorem takeBool_putBool (b : Bool) (rest : List Byte) : takeBool (putBool b :: rest) = some (b, rest) := by
  cases b <;> simp [putBool, takeBool]

@[simp] theorem takeCode_putCode (c : Code) (rest : List Byte) : takeCode (putCode c ++ rest) = some (c, rest) := by
  cases c <;> simp [putCode, takeCode]

@[simp] theorem takeShape_putShape (h : Shape) (rest : List Byte) : takeShape (putShape h :: rest) = some (h, rest) := by
  cases h <;> simp [putShape, takeShape]

@[simp] theorem takeKind_putKind (k : FrameKind) (rest : List Byte) : takeKind (putKind k :: rest) = some (k, rest) := by
  cases k <;> simp [putKind, takeKind]

@[simp] theorem takeCommand_putCommand (c : Command) (rest : List Byte) :
    takeCommand (putCommand c ++ rest) = some (c, rest) := by
  simp [takeCommand, putCommand]

@[simp] theorem takeResponse_putResponse (r : Response) (rest : List Byte) :
    takeResponse (putResponse r ++ rest) = some (r, rest) := by
  simp [takeResponse, putResponse]

@[simp] theorem takeCall_putCall (code : Code) (dst : Addr) (pay rest : List Byte) :
    takeCall (putCall code dst pay ++ rest) = some ((code, dst, pay), rest) := by
  simp [takeCall, putCall]

-- Each reader takes at least one byte.

theorem takeBytes_shorter {l rest b : List Byte} (h : takeBytes l = some (b, rest)) : rest.length < l.length := by
  induction hn : l.length using Nat.strong_induction_on generalizing l b with
  | _ n ih =>
    cases l with
    | nil => simp [takeBytes] at h
    | cons m l =>
      unfold takeBytes at h
      split at h
      · simp at h; simp [← h.2] at hn ⊢; omega
      · split at h
        · cases l with
          | nil => simp at h
          | cons x l =>
            simp only [Option.map_eq_some_iff, Prod.mk.injEq] at h
            obtain ⟨y, hy, -, rfl⟩ := h
            have := ih l.length (by simp at hn; omega) (b := y.1) (l := l) (by rw [hy]) rfl
            simp at hn; omega
        · simp at h

theorem takeNat_shorter {l rest : List Byte} {n : Nat} (h : takeNat l = some (n, rest)) : rest.length < l.length := by
  induction l generalizing n with
  | nil => simp [takeNat] at h
  | cons m l ih =>
    simp only [takeNat] at h
    split at h
    · simp at h; simp [h.2]
    · split at h
      · simp only [Option.map_eq_some_iff, Prod.mk.injEq] at h
        obtain ⟨y, hy, -, rfl⟩ := h
        have := ih (n := y.1) (by rw [hy])
        simp; omega
      · simp at h

end Sys2Proof
end

