-- ==== Sys2Proof/Laws/State.lean ====
section
/-! SUPPORT. One lemma per field and named update of State, true by computation, so that no proof unfolds a record
update. -/
namespace Sys2Proof.Machine

@[simp] theorem raise_phase (k : ResKind) (n : Nat) (s : State) : (raise k n s).phase = .done := rfl
@[simp] theorem raise_reqCode (k : ResKind) (n : Nat) (s : State) : (raise k n s).reqCode = s.reqCode := rfl
@[simp] theorem raise_reqDst (k : ResKind) (n : Nat) (s : State) : (raise k n s).reqDst = s.reqDst := rfl
@[simp] theorem raise_reqLen (k : ResKind) (n : Nat) (s : State) : (raise k n s).reqLen = s.reqLen := rfl
@[simp] theorem raise_reqPay (k : ResKind) (n : Nat) (s : State) : (raise k n s).reqPay = s.reqPay := rfl
@[simp] theorem raise_expLen (k : ResKind) (n : Nat) (s : State) : (raise k n s).expLen = s.expLen := rfl
@[simp] theorem raise_tmr (k : ResKind) (n : Nat) (s : State) : (raise k n s).tmr = s.tmr := rfl
@[simp] theorem raise_elapsed (k : ResKind) (n : Nat) (s : State) : (raise k n s).elapsed = s.elapsed := rfl
@[simp] theorem raise_pollTmr (k : ResKind) (n : Nat) (s : State) : (raise k n s).pollTmr = s.pollTmr := rfl
@[simp] theorem raise_txBuf (k : ResKind) (n : Nat) (s : State) : (raise k n s).txBuf = s.txBuf := rfl
@[simp] theorem raise_txLen (k : ResKind) (n : Nat) (s : State) : (raise k n s).txLen = s.txLen := rfl
@[simp] theorem raise_rxBuf (k : ResKind) (n : Nat) (s : State) : (raise k n s).rxBuf = s.rxBuf := rfl
@[simp] theorem raise_rxCnt (k : ResKind) (n : Nat) (s : State) : (raise k n s).rxCnt = s.rxCnt := rfl
@[simp] theorem raise_resKind (k : ResKind) (n : Nat) (s : State) : (raise k n s).resKind = k := rfl
@[simp] theorem raise_resCount (k : ResKind) (n : Nat) (s : State) : (raise k n s).resCount = n := rfl
@[simp] theorem raise_rsp (k : ResKind) (n : Nat) (s : State) : (raise k n s).rsp = s.rsp := rfl
@[simp] theorem raise_connOpen (k : ResKind) (n : Nat) (s : State) : (raise k n s).connOpen = s.connOpen := rfl
@[simp] theorem raise_rxq (k : ResKind) (n : Nat) (s : State) : (raise k n s).rxq = s.rxq := rfl
@[simp] theorem raise_txq (k : ResKind) (n : Nat) (s : State) : (raise k n s).txq = s.txq := rfl
@[simp] theorem raise_now (k : ResKind) (n : Nat) (s : State) : (raise k n s).now = s.now := rfl
@[simp] theorem raise_agenda (k : ResKind) (n : Nat) (s : State) : (raise k n s).agenda = s.agenda := rfl
@[simp] theorem raise_draws (k : ResKind) (n : Nat) (s : State) : (raise k n s).draws = s.draws := rfl
@[simp] theorem raise_turns (k : ResKind) (n : Nat) (s : State) : (raise k n s).turns = s.turns := rfl
@[simp] theorem raise_freeCount (k : ResKind) (n : Nat) (s : State) : (raise k n s).freeCount = s.freeCount := rfl
@[simp] theorem raise_returned (k : ResKind) (n : Nat) (s : State) : (raise k n s).returned = s.returned := rfl

@[simp] theorem acknowledge_phase (s : State) : (acknowledge s).phase = .idle := rfl
@[simp] theorem acknowledge_reqCode (s : State) : (acknowledge s).reqCode = s.reqCode := rfl
@[simp] theorem acknowledge_reqDst (s : State) : (acknowledge s).reqDst = s.reqDst := rfl
@[simp] theorem acknowledge_reqLen (s : State) : (acknowledge s).reqLen = s.reqLen := rfl
@[simp] theorem acknowledge_reqPay (s : State) : (acknowledge s).reqPay = s.reqPay := rfl
@[simp] theorem acknowledge_expLen (s : State) : (acknowledge s).expLen = s.expLen := rfl
@[simp] theorem acknowledge_tmr (s : State) : (acknowledge s).tmr = s.tmr := rfl
@[simp] theorem acknowledge_elapsed (s : State) : (acknowledge s).elapsed = s.elapsed := rfl
@[simp] theorem acknowledge_pollTmr (s : State) : (acknowledge s).pollTmr = s.pollTmr := rfl
@[simp] theorem acknowledge_txBuf (s : State) : (acknowledge s).txBuf = s.txBuf := rfl
@[simp] theorem acknowledge_txLen (s : State) : (acknowledge s).txLen = s.txLen := rfl
@[simp] theorem acknowledge_rxBuf (s : State) : (acknowledge s).rxBuf = s.rxBuf := rfl
@[simp] theorem acknowledge_rxCnt (s : State) : (acknowledge s).rxCnt = s.rxCnt := rfl
@[simp] theorem acknowledge_resKind (s : State) : (acknowledge s).resKind = s.resKind := rfl
@[simp] theorem acknowledge_resCount (s : State) : (acknowledge s).resCount = s.resCount := rfl
@[simp] theorem acknowledge_rsp (s : State) : (acknowledge s).rsp = s.rsp := rfl
@[simp] theorem acknowledge_connOpen (s : State) : (acknowledge s).connOpen = s.connOpen := rfl
@[simp] theorem acknowledge_rxq (s : State) : (acknowledge s).rxq = s.rxq := rfl
@[simp] theorem acknowledge_txq (s : State) : (acknowledge s).txq = s.txq := rfl
@[simp] theorem acknowledge_now (s : State) : (acknowledge s).now = s.now := rfl
@[simp] theorem acknowledge_agenda (s : State) : (acknowledge s).agenda = s.agenda := rfl
@[simp] theorem acknowledge_draws (s : State) : (acknowledge s).draws = s.draws := rfl
@[simp] theorem acknowledge_turns (s : State) : (acknowledge s).turns = s.turns := rfl
@[simp] theorem acknowledge_freeCount (s : State) : (acknowledge s).freeCount = s.freeCount := rfl
@[simp] theorem acknowledge_returned (s : State) : (acknowledge s).returned = s.returned := rfl

@[simp] theorem giveBack_phase (v : OpValue) (s : State) : (giveBack v s).phase = s.phase := rfl
@[simp] theorem giveBack_reqCode (v : OpValue) (s : State) : (giveBack v s).reqCode = s.reqCode := rfl
@[simp] theorem giveBack_reqDst (v : OpValue) (s : State) : (giveBack v s).reqDst = s.reqDst := rfl
@[simp] theorem giveBack_reqLen (v : OpValue) (s : State) : (giveBack v s).reqLen = s.reqLen := rfl
@[simp] theorem giveBack_reqPay (v : OpValue) (s : State) : (giveBack v s).reqPay = s.reqPay := rfl
@[simp] theorem giveBack_expLen (v : OpValue) (s : State) : (giveBack v s).expLen = s.expLen := rfl
@[simp] theorem giveBack_tmr (v : OpValue) (s : State) : (giveBack v s).tmr = s.tmr := rfl
@[simp] theorem giveBack_elapsed (v : OpValue) (s : State) : (giveBack v s).elapsed = s.elapsed := rfl
@[simp] theorem giveBack_pollTmr (v : OpValue) (s : State) : (giveBack v s).pollTmr = s.pollTmr := rfl
@[simp] theorem giveBack_txBuf (v : OpValue) (s : State) : (giveBack v s).txBuf = s.txBuf := rfl
@[simp] theorem giveBack_txLen (v : OpValue) (s : State) : (giveBack v s).txLen = s.txLen := rfl
@[simp] theorem giveBack_rxBuf (v : OpValue) (s : State) : (giveBack v s).rxBuf = s.rxBuf := rfl
@[simp] theorem giveBack_rxCnt (v : OpValue) (s : State) : (giveBack v s).rxCnt = s.rxCnt := rfl
@[simp] theorem giveBack_resKind (v : OpValue) (s : State) : (giveBack v s).resKind = s.resKind := rfl
@[simp] theorem giveBack_resCount (v : OpValue) (s : State) : (giveBack v s).resCount = s.resCount := rfl
@[simp] theorem giveBack_rsp (v : OpValue) (s : State) : (giveBack v s).rsp = s.rsp := rfl
@[simp] theorem giveBack_connOpen (v : OpValue) (s : State) : (giveBack v s).connOpen = s.connOpen := rfl
@[simp] theorem giveBack_rxq (v : OpValue) (s : State) : (giveBack v s).rxq = s.rxq := rfl
@[simp] theorem giveBack_txq (v : OpValue) (s : State) : (giveBack v s).txq = s.txq := rfl
@[simp] theorem giveBack_now (v : OpValue) (s : State) : (giveBack v s).now = s.now := rfl
@[simp] theorem giveBack_agenda (v : OpValue) (s : State) : (giveBack v s).agenda = s.agenda := rfl
@[simp] theorem giveBack_draws (v : OpValue) (s : State) : (giveBack v s).draws = s.draws := rfl
@[simp] theorem giveBack_turns (v : OpValue) (s : State) : (giveBack v s).turns = s.turns := rfl
@[simp] theorem giveBack_freeCount (v : OpValue) (s : State) : (giveBack v s).freeCount = s.freeCount := rfl
@[simp] theorem giveBack_returned (v : OpValue) (s : State) : (giveBack v s).returned = v := rfl

@[simp] theorem linkFlush_phase (s : State) : (linkFlush s).phase = s.phase := rfl
@[simp] theorem linkFlush_reqCode (s : State) : (linkFlush s).reqCode = s.reqCode := rfl
@[simp] theorem linkFlush_reqDst (s : State) : (linkFlush s).reqDst = s.reqDst := rfl
@[simp] theorem linkFlush_reqLen (s : State) : (linkFlush s).reqLen = s.reqLen := rfl
@[simp] theorem linkFlush_reqPay (s : State) : (linkFlush s).reqPay = s.reqPay := rfl
@[simp] theorem linkFlush_expLen (s : State) : (linkFlush s).expLen = s.expLen := rfl
@[simp] theorem linkFlush_tmr (s : State) : (linkFlush s).tmr = s.tmr := rfl
@[simp] theorem linkFlush_elapsed (s : State) : (linkFlush s).elapsed = s.elapsed := rfl
@[simp] theorem linkFlush_pollTmr (s : State) : (linkFlush s).pollTmr = s.pollTmr := rfl
@[simp] theorem linkFlush_txBuf (s : State) : (linkFlush s).txBuf = s.txBuf := rfl
@[simp] theorem linkFlush_txLen (s : State) : (linkFlush s).txLen = s.txLen := rfl
@[simp] theorem linkFlush_rxBuf (s : State) : (linkFlush s).rxBuf = s.rxBuf := rfl
@[simp] theorem linkFlush_rxCnt (s : State) : (linkFlush s).rxCnt = s.rxCnt := rfl
@[simp] theorem linkFlush_resKind (s : State) : (linkFlush s).resKind = s.resKind := rfl
@[simp] theorem linkFlush_resCount (s : State) : (linkFlush s).resCount = s.resCount := rfl
@[simp] theorem linkFlush_rsp (s : State) : (linkFlush s).rsp = s.rsp := rfl
@[simp] theorem linkFlush_connOpen (s : State) : (linkFlush s).connOpen = s.connOpen := rfl
@[simp] theorem linkFlush_rxq (s : State) : (linkFlush s).rxq = [] := rfl
@[simp] theorem linkFlush_txq (s : State) : (linkFlush s).txq = [] := rfl
@[simp] theorem linkFlush_now (s : State) : (linkFlush s).now = s.now := rfl
@[simp] theorem linkFlush_agenda (s : State) : (linkFlush s).agenda = s.agenda := rfl
@[simp] theorem linkFlush_draws (s : State) : (linkFlush s).draws = s.draws := rfl
@[simp] theorem linkFlush_turns (s : State) : (linkFlush s).turns = s.turns := rfl
@[simp] theorem linkFlush_freeCount (s : State) : (linkFlush s).freeCount = s.freeCount := rfl
@[simp] theorem linkFlush_returned (s : State) : (linkFlush s).returned = s.returned := rfl

@[simp] theorem envDeliver_phase (b : Byte) (s : State) : (envDeliver b s).phase = s.phase := rfl
@[simp] theorem envDeliver_reqCode (b : Byte) (s : State) : (envDeliver b s).reqCode = s.reqCode := rfl
@[simp] theorem envDeliver_reqDst (b : Byte) (s : State) : (envDeliver b s).reqDst = s.reqDst := rfl
@[simp] theorem envDeliver_reqLen (b : Byte) (s : State) : (envDeliver b s).reqLen = s.reqLen := rfl
@[simp] theorem envDeliver_reqPay (b : Byte) (s : State) : (envDeliver b s).reqPay = s.reqPay := rfl
@[simp] theorem envDeliver_expLen (b : Byte) (s : State) : (envDeliver b s).expLen = s.expLen := rfl
@[simp] theorem envDeliver_tmr (b : Byte) (s : State) : (envDeliver b s).tmr = s.tmr := rfl
@[simp] theorem envDeliver_elapsed (b : Byte) (s : State) : (envDeliver b s).elapsed = s.elapsed := rfl
@[simp] theorem envDeliver_pollTmr (b : Byte) (s : State) : (envDeliver b s).pollTmr = s.pollTmr := rfl
@[simp] theorem envDeliver_txBuf (b : Byte) (s : State) : (envDeliver b s).txBuf = s.txBuf := rfl
@[simp] theorem envDeliver_txLen (b : Byte) (s : State) : (envDeliver b s).txLen = s.txLen := rfl
@[simp] theorem envDeliver_rxBuf (b : Byte) (s : State) : (envDeliver b s).rxBuf = s.rxBuf := rfl
@[simp] theorem envDeliver_rxCnt (b : Byte) (s : State) : (envDeliver b s).rxCnt = s.rxCnt := rfl
@[simp] theorem envDeliver_resKind (b : Byte) (s : State) : (envDeliver b s).resKind = s.resKind := rfl
@[simp] theorem envDeliver_resCount (b : Byte) (s : State) : (envDeliver b s).resCount = s.resCount := rfl
@[simp] theorem envDeliver_rsp (b : Byte) (s : State) : (envDeliver b s).rsp = s.rsp := rfl
@[simp] theorem envDeliver_connOpen (b : Byte) (s : State) : (envDeliver b s).connOpen = s.connOpen := rfl
@[simp] theorem envDeliver_rxq (b : Byte) (s : State) : (envDeliver b s).rxq = s.rxq ++ [b] := rfl
@[simp] theorem envDeliver_txq (b : Byte) (s : State) : (envDeliver b s).txq = s.txq := rfl
@[simp] theorem envDeliver_now (b : Byte) (s : State) : (envDeliver b s).now = s.now := rfl
@[simp] theorem envDeliver_agenda (b : Byte) (s : State) : (envDeliver b s).agenda = s.agenda := rfl
@[simp] theorem envDeliver_draws (b : Byte) (s : State) : (envDeliver b s).draws = s.draws := rfl
@[simp] theorem envDeliver_turns (b : Byte) (s : State) : (envDeliver b s).turns = s.turns := rfl
@[simp] theorem envDeliver_freeCount (b : Byte) (s : State) : (envDeliver b s).freeCount = s.freeCount := rfl
@[simp] theorem envDeliver_returned (b : Byte) (s : State) : (envDeliver b s).returned = s.returned := rfl

@[simp] theorem envDrain_phase (s : State) : (envDrain s).phase = s.phase := rfl
@[simp] theorem envDrain_reqCode (s : State) : (envDrain s).reqCode = s.reqCode := rfl
@[simp] theorem envDrain_reqDst (s : State) : (envDrain s).reqDst = s.reqDst := rfl
@[simp] theorem envDrain_reqLen (s : State) : (envDrain s).reqLen = s.reqLen := rfl
@[simp] theorem envDrain_reqPay (s : State) : (envDrain s).reqPay = s.reqPay := rfl
@[simp] theorem envDrain_expLen (s : State) : (envDrain s).expLen = s.expLen := rfl
@[simp] theorem envDrain_tmr (s : State) : (envDrain s).tmr = s.tmr := rfl
@[simp] theorem envDrain_elapsed (s : State) : (envDrain s).elapsed = s.elapsed := rfl
@[simp] theorem envDrain_pollTmr (s : State) : (envDrain s).pollTmr = s.pollTmr := rfl
@[simp] theorem envDrain_txBuf (s : State) : (envDrain s).txBuf = s.txBuf := rfl
@[simp] theorem envDrain_txLen (s : State) : (envDrain s).txLen = s.txLen := rfl
@[simp] theorem envDrain_rxBuf (s : State) : (envDrain s).rxBuf = s.rxBuf := rfl
@[simp] theorem envDrain_rxCnt (s : State) : (envDrain s).rxCnt = s.rxCnt := rfl
@[simp] theorem envDrain_resKind (s : State) : (envDrain s).resKind = s.resKind := rfl
@[simp] theorem envDrain_resCount (s : State) : (envDrain s).resCount = s.resCount := rfl
@[simp] theorem envDrain_rsp (s : State) : (envDrain s).rsp = s.rsp := rfl
@[simp] theorem envDrain_connOpen (s : State) : (envDrain s).connOpen = s.connOpen := rfl
@[simp] theorem envDrain_rxq (s : State) : (envDrain s).rxq = s.rxq := rfl
@[simp] theorem envDrain_txq (s : State) : (envDrain s).txq = s.txq.drop 1 := rfl
@[simp] theorem envDrain_now (s : State) : (envDrain s).now = s.now := rfl
@[simp] theorem envDrain_agenda (s : State) : (envDrain s).agenda = s.agenda := rfl
@[simp] theorem envDrain_draws (s : State) : (envDrain s).draws = s.draws := rfl
@[simp] theorem envDrain_turns (s : State) : (envDrain s).turns = s.turns := rfl
@[simp] theorem envDrain_freeCount (s : State) : (envDrain s).freeCount = s.freeCount := rfl
@[simp] theorem envDrain_returned (s : State) : (envDrain s).returned = s.returned := rfl

@[simp] theorem afterDraw_phase (s : State) : (afterDraw s).phase = s.phase := rfl
@[simp] theorem afterDraw_reqCode (s : State) : (afterDraw s).reqCode = s.reqCode := rfl
@[simp] theorem afterDraw_reqDst (s : State) : (afterDraw s).reqDst = s.reqDst := rfl
@[simp] theorem afterDraw_reqLen (s : State) : (afterDraw s).reqLen = s.reqLen := rfl
@[simp] theorem afterDraw_reqPay (s : State) : (afterDraw s).reqPay = s.reqPay := rfl
@[simp] theorem afterDraw_expLen (s : State) : (afterDraw s).expLen = s.expLen := rfl
@[simp] theorem afterDraw_tmr (s : State) : (afterDraw s).tmr = s.tmr := rfl
@[simp] theorem afterDraw_elapsed (s : State) : (afterDraw s).elapsed = s.elapsed := rfl
@[simp] theorem afterDraw_pollTmr (s : State) : (afterDraw s).pollTmr = s.pollTmr := rfl
@[simp] theorem afterDraw_txBuf (s : State) : (afterDraw s).txBuf = s.txBuf := rfl
@[simp] theorem afterDraw_txLen (s : State) : (afterDraw s).txLen = s.txLen := rfl
@[simp] theorem afterDraw_rxBuf (s : State) : (afterDraw s).rxBuf = s.rxBuf := rfl
@[simp] theorem afterDraw_rxCnt (s : State) : (afterDraw s).rxCnt = s.rxCnt := rfl
@[simp] theorem afterDraw_resKind (s : State) : (afterDraw s).resKind = s.resKind := rfl
@[simp] theorem afterDraw_resCount (s : State) : (afterDraw s).resCount = s.resCount := rfl
@[simp] theorem afterDraw_rsp (s : State) : (afterDraw s).rsp = s.rsp := rfl
@[simp] theorem afterDraw_connOpen (s : State) : (afterDraw s).connOpen = s.connOpen := rfl
@[simp] theorem afterDraw_rxq (s : State) : (afterDraw s).rxq = s.rxq := rfl
@[simp] theorem afterDraw_txq (s : State) : (afterDraw s).txq = s.txq := rfl
@[simp] theorem afterDraw_now (s : State) : (afterDraw s).now = s.now := rfl
@[simp] theorem afterDraw_agenda (s : State) : (afterDraw s).agenda = s.agenda := rfl
@[simp] theorem afterDraw_draws (s : State) : (afterDraw s).draws = s.draws.tail := rfl
@[simp] theorem afterDraw_turns (s : State) : (afterDraw s).turns = s.turns := rfl
@[simp] theorem afterDraw_returned (s : State) : (afterDraw s).returned = s.returned := rfl

@[simp] theorem envTurn_phase (s : State) : (envTurn s).phase = s.phase := rfl
@[simp] theorem envTurn_reqCode (s : State) : (envTurn s).reqCode = s.reqCode := rfl
@[simp] theorem envTurn_reqDst (s : State) : (envTurn s).reqDst = s.reqDst := rfl
@[simp] theorem envTurn_reqLen (s : State) : (envTurn s).reqLen = s.reqLen := rfl
@[simp] theorem envTurn_reqPay (s : State) : (envTurn s).reqPay = s.reqPay := rfl
@[simp] theorem envTurn_expLen (s : State) : (envTurn s).expLen = s.expLen := rfl
@[simp] theorem envTurn_tmr (s : State) : (envTurn s).tmr = s.tmr := rfl
@[simp] theorem envTurn_elapsed (s : State) : (envTurn s).elapsed = s.elapsed := rfl
@[simp] theorem envTurn_pollTmr (s : State) : (envTurn s).pollTmr = s.pollTmr := rfl
@[simp] theorem envTurn_txBuf (s : State) : (envTurn s).txBuf = s.txBuf := rfl
@[simp] theorem envTurn_txLen (s : State) : (envTurn s).txLen = s.txLen := rfl
@[simp] theorem envTurn_rxBuf (s : State) : (envTurn s).rxBuf = s.rxBuf := rfl
@[simp] theorem envTurn_rxCnt (s : State) : (envTurn s).rxCnt = s.rxCnt := rfl
@[simp] theorem envTurn_resKind (s : State) : (envTurn s).resKind = s.resKind := rfl
@[simp] theorem envTurn_resCount (s : State) : (envTurn s).resCount = s.resCount := rfl
@[simp] theorem envTurn_rsp (s : State) : (envTurn s).rsp = s.rsp := rfl
@[simp] theorem envTurn_connOpen (s : State) : (envTurn s).connOpen = s.connOpen := rfl
@[simp] theorem envTurn_rxq (s : State) : (envTurn s).rxq = s.rxq ++ (nextTurn s).deliver := rfl
@[simp] theorem envTurn_txq (s : State) : (envTurn s).txq = s.txq.drop (nextTurn s).drain := rfl
@[simp] theorem envTurn_now (s : State) : (envTurn s).now = s.now := rfl
@[simp] theorem envTurn_agenda (s : State) : (envTurn s).agenda = s.agenda := rfl
@[simp] theorem envTurn_draws (s : State) : (envTurn s).draws = s.draws := rfl
@[simp] theorem envTurn_turns (s : State) : (envTurn s).turns = s.turns.tail := rfl
@[simp] theorem envTurn_returned (s : State) : (envTurn s).returned = s.returned := rfl

@[simp] theorem tickMs_eq : Config.tickMs = 1 := rfl
@[simp] theorem passTime_phase (s : State) : (passTime s).phase = s.phase := rfl
@[simp] theorem passTime_reqCode (s : State) : (passTime s).reqCode = s.reqCode := rfl
@[simp] theorem passTime_reqDst (s : State) : (passTime s).reqDst = s.reqDst := rfl
@[simp] theorem passTime_reqLen (s : State) : (passTime s).reqLen = s.reqLen := rfl
@[simp] theorem passTime_reqPay (s : State) : (passTime s).reqPay = s.reqPay := rfl
@[simp] theorem passTime_expLen (s : State) : (passTime s).expLen = s.expLen := rfl
@[simp] theorem passTime_txBuf (s : State) : (passTime s).txBuf = s.txBuf := rfl
@[simp] theorem passTime_txLen (s : State) : (passTime s).txLen = s.txLen := rfl
@[simp] theorem passTime_rxBuf (s : State) : (passTime s).rxBuf = s.rxBuf := rfl
@[simp] theorem passTime_rxCnt (s : State) : (passTime s).rxCnt = s.rxCnt := rfl
@[simp] theorem passTime_resKind (s : State) : (passTime s).resKind = s.resKind := rfl
@[simp] theorem passTime_resCount (s : State) : (passTime s).resCount = s.resCount := rfl
@[simp] theorem passTime_rsp (s : State) : (passTime s).rsp = s.rsp := rfl
@[simp] theorem passTime_connOpen (s : State) : (passTime s).connOpen = s.connOpen := rfl
@[simp] theorem passTime_rxq (s : State) : (passTime s).rxq = s.rxq := rfl
@[simp] theorem passTime_txq (s : State) : (passTime s).txq = s.txq := rfl
@[simp] theorem passTime_now (s : State) : (passTime s).now = s.now + 1 := rfl
@[simp] theorem passTime_agenda (s : State) : (passTime s).agenda = s.agenda := rfl
@[simp] theorem passTime_draws (s : State) : (passTime s).draws = s.draws := rfl
@[simp] theorem passTime_turns (s : State) : (passTime s).turns = s.turns := rfl
@[simp] theorem passTime_freeCount (s : State) : (passTime s).freeCount = s.freeCount := rfl
@[simp] theorem passTime_returned (s : State) : (passTime s).returned = s.returned := rfl

@[simp] theorem loadFrame_phase (f : List Byte) (s : State) : (loadFrame f s).phase = .write := rfl
@[simp] theorem loadFrame_reqCode (f : List Byte) (s : State) : (loadFrame f s).reqCode = s.reqCode := rfl
@[simp] theorem loadFrame_reqDst (f : List Byte) (s : State) : (loadFrame f s).reqDst = s.reqDst := rfl
@[simp] theorem loadFrame_reqLen (f : List Byte) (s : State) : (loadFrame f s).reqLen = s.reqLen := rfl
@[simp] theorem loadFrame_reqPay (f : List Byte) (s : State) : (loadFrame f s).reqPay = s.reqPay := rfl
@[simp] theorem loadFrame_expLen (f : List Byte) (s : State) : (loadFrame f s).expLen = s.expLen := rfl
@[simp] theorem loadFrame_tmr (f : List Byte) (s : State) : (loadFrame f s).tmr = s.tmr := rfl
@[simp] theorem loadFrame_elapsed (f : List Byte) (s : State) : (loadFrame f s).elapsed = s.elapsed := rfl
@[simp] theorem loadFrame_pollTmr (f : List Byte) (s : State) : (loadFrame f s).pollTmr = s.pollTmr := rfl
@[simp] theorem loadFrame_txBuf (f : List Byte) (s : State) : (loadFrame f s).txBuf = overwrite s.txBuf f := rfl
@[simp] theorem loadFrame_txLen (f : List Byte) (s : State) : (loadFrame f s).txLen = BitVec.ofNat 8 f.length := rfl
@[simp] theorem loadFrame_rxBuf (f : List Byte) (s : State) : (loadFrame f s).rxBuf = s.rxBuf := rfl
@[simp] theorem loadFrame_rxCnt (f : List Byte) (s : State) : (loadFrame f s).rxCnt = s.rxCnt := rfl
@[simp] theorem loadFrame_resKind (f : List Byte) (s : State) : (loadFrame f s).resKind = s.resKind := rfl
@[simp] theorem loadFrame_resCount (f : List Byte) (s : State) : (loadFrame f s).resCount = s.resCount := rfl
@[simp] theorem loadFrame_rsp (f : List Byte) (s : State) : (loadFrame f s).rsp = s.rsp := rfl
@[simp] theorem loadFrame_connOpen (f : List Byte) (s : State) : (loadFrame f s).connOpen = s.connOpen := rfl
@[simp] theorem loadFrame_rxq (f : List Byte) (s : State) : (loadFrame f s).rxq = s.rxq := rfl
@[simp] theorem loadFrame_txq (f : List Byte) (s : State) : (loadFrame f s).txq = s.txq := rfl
@[simp] theorem loadFrame_now (f : List Byte) (s : State) : (loadFrame f s).now = s.now := rfl
@[simp] theorem loadFrame_agenda (f : List Byte) (s : State) : (loadFrame f s).agenda = s.agenda := rfl
@[simp] theorem loadFrame_draws (f : List Byte) (s : State) : (loadFrame f s).draws = s.draws := rfl
@[simp] theorem loadFrame_turns (f : List Byte) (s : State) : (loadFrame f s).turns = s.turns := rfl
@[simp] theorem loadFrame_freeCount (f : List Byte) (s : State) : (loadFrame f s).freeCount = s.freeCount := rfl
@[simp] theorem loadFrame_returned (f : List Byte) (s : State) : (loadFrame f s).returned = s.returned := rfl

@[simp] theorem startPolling_phase (p : Params) (s : State) : (startPolling p s).phase = .poll := rfl
@[simp] theorem startPolling_reqCode (p : Params) (s : State) : (startPolling p s).reqCode = s.reqCode := rfl
@[simp] theorem startPolling_reqDst (p : Params) (s : State) : (startPolling p s).reqDst = s.reqDst := rfl
@[simp] theorem startPolling_reqLen (p : Params) (s : State) : (startPolling p s).reqLen = s.reqLen := rfl
@[simp] theorem startPolling_reqPay (p : Params) (s : State) : (startPolling p s).reqPay = s.reqPay := rfl
@[simp] theorem startPolling_expLen (p : Params) (s : State) : (startPolling p s).expLen = s.expLen := rfl
@[simp] theorem startPolling_tmr (p : Params) (s : State) : (startPolling p s).tmr = s.tmr := rfl
@[simp] theorem startPolling_elapsed (p : Params) (s : State) : (startPolling p s).elapsed = 0 := rfl
@[simp] theorem startPolling_pollTmr (p : Params) (s : State) : (startPolling p s).pollTmr = p.tPoll := rfl
@[simp] theorem startPolling_txBuf (p : Params) (s : State) : (startPolling p s).txBuf = s.txBuf := rfl
@[simp] theorem startPolling_txLen (p : Params) (s : State) : (startPolling p s).txLen = s.txLen := rfl
@[simp] theorem startPolling_rxBuf (p : Params) (s : State) : (startPolling p s).rxBuf = s.rxBuf := rfl
@[simp] theorem startPolling_rxCnt (p : Params) (s : State) : (startPolling p s).rxCnt = s.rxCnt := rfl
@[simp] theorem startPolling_resKind (p : Params) (s : State) : (startPolling p s).resKind = s.resKind := rfl
@[simp] theorem startPolling_resCount (p : Params) (s : State) : (startPolling p s).resCount = s.resCount := rfl
@[simp] theorem startPolling_rsp (p : Params) (s : State) : (startPolling p s).rsp = s.rsp := rfl
@[simp] theorem startPolling_connOpen (p : Params) (s : State) : (startPolling p s).connOpen = s.connOpen := rfl
@[simp] theorem startPolling_rxq (p : Params) (s : State) : (startPolling p s).rxq = s.rxq := rfl
@[simp] theorem startPolling_txq (p : Params) (s : State) : (startPolling p s).txq = s.txq := rfl
@[simp] theorem startPolling_now (p : Params) (s : State) : (startPolling p s).now = s.now := rfl
@[simp] theorem startPolling_agenda (p : Params) (s : State) : (startPolling p s).agenda = s.agenda := rfl
@[simp] theorem startPolling_draws (p : Params) (s : State) : (startPolling p s).draws = s.draws := rfl
@[simp] theorem startPolling_turns (p : Params) (s : State) : (startPolling p s).turns = s.turns := rfl
@[simp] theorem startPolling_freeCount (p : Params) (s : State) : (startPolling p s).freeCount = s.freeCount := rfl
@[simp] theorem startPolling_returned (p : Params) (s : State) : (startPolling p s).returned = s.returned := rfl

end Sys2Proof.Machine
end

