-- ==== Sys2Proof/Laws/Ops.lean ====
section
/-! SUPPORT. What the shared operations of Machine/Ops.lean can do, said once. -/
namespace Sys2Proof.Machine

@[simp] theorem andThen_next {α β : Type} (a : α) (k : α → Host.Outcome β Fault Refusal) :
    andThen (.next a) k = k a := rfl

@[simp] theorem andThen_fault {α β : Type} (f : Fault) (k : α → Host.Outcome β Fault Refusal) :
    andThen (.fault f) k = .fault f := rfl

@[simp] theorem andThen_refused {α β : Type} (r : Refusal) (k : α → Host.Outcome β Fault Refusal) :
    andThen (.refused r) k = .refused r := rfl

/-- A sequence answers a next state exactly when both parts do. -/
theorem andThen_eq_next {α β : Type} {o : Host.Outcome α Fault Refusal} {k : α → Host.Outcome β Fault Refusal}
    {b : β} : andThen o k = .next b ↔ ∃ a, o = .next a ∧ k a = .next b := by
  cases o <;> simp

theorem andThen_assoc {α β γ : Type} (o : Host.Outcome α Fault Refusal) (k : α → Host.Outcome β Fault Refusal)
    (m : β → Host.Outcome γ Fault Refusal) : andThen (andThen o k) m = andThen o fun a => andThen (k a) m := by
  cases o <;> rfl

/-- The bytes a failing write hands over are a proper part, from the front, of a non-empty frame (R40). -/
theorem writtenBytes_fail {bytes : List Byte} {d : Draw} (h : d.ok = false) (hb : bytes ≠ []) :
    ∃ k, k < bytes.length ∧ writtenBytes bytes d = bytes.take k := by
  refine ⟨min d.count (bytes.length - 1), ?_, by simp [writtenBytes, h]⟩
  have := List.length_pos_iff.mpr hb
  omega

@[simp] theorem writtenBytes_ok {bytes : List Byte} {d : Draw} (h : d.ok = true) : writtenBytes bytes d = bytes := by
  simp [writtenBytes, h]

/-- A read returns at most the bytes asked for and at most the bytes there are (R42). -/
theorem readCount_le (n : Nat) (d : Draw) (s : State) : readCount n d s ≤ n ∧ readCount n d s ≤ s.rxq.length := by
  unfold readCount; omega

/-- What `LinkRead` returns and leaves, when it succeeds: a front part of `RXQ`, and the rest (R42). -/
theorem linkRead_some {n : Nat} {s : State} {b : List Byte} (h : (linkRead n s).1 = some b) :
    b.length ≤ n ∧ b ++ (linkRead n s).2.rxq = s.rxq := by
  unfold linkRead at h ⊢
  split at h
  · rename_i hd
    simp only [Option.some.injEq] at h
    subst h
    have := readCount_le n (nextDraw s) s
    simp [hd, List.length_take]
    omega
  · simp at h

/-- The registers a transaction's link and environment never touch: the state with its queues, time, plan and choices
blanked. -/
def regsOf (s : State) : State :=
  { s with
    rxq := []
    txq := []
    now := 0
    agenda := []
    draws := []
    turns := []
    freeCount := 0
    returned := .nothing }

/-- The registers of one state on the link, the time and the choices of another. -/
def onto (r l : State) : State :=
  { r with
    rxq := l.rxq
    txq := l.txq
    now := l.now
    draws := l.draws
    turns := l.turns
    freeCount := l.freeCount }

@[simp] theorem onto_self (s : State) : onto s s = s := rfl

@[simp] theorem onto_onto_left (a b c : State) : onto (onto a b) c = onto a c := rfl

@[simp] theorem onto_onto_right (a b c : State) : onto a (onto b c) = onto a c := rfl

@[simp] theorem regsOf_onto (a b : State) : regsOf (onto a b) = regsOf a := rfl

@[simp] theorem regsOf_envTurn (s : State) : regsOf (envTurn s) = regsOf s := rfl

@[simp] theorem regsOf_afterDraw (s : State) : regsOf (afterDraw s) = regsOf s := rfl

@[simp] theorem regsOf_linkFlush (s : State) : regsOf (linkFlush s) = regsOf s := rfl

@[simp] theorem regsOf_giveBack (v : OpValue) (s : State) : regsOf (giveBack v s) = regsOf s := rfl

@[simp] theorem regsOf_linkWrite (f : List Byte) (s : State) : regsOf (linkWrite f s).2 = regsOf s := rfl

@[simp] theorem regsOf_linkAvail (s : State) : regsOf (linkAvail s).2 = regsOf s := rfl

@[simp] theorem regsOf_linkRead (n : Nat) (s : State) : regsOf (linkRead n s).2 = regsOf s := by
  unfold linkRead; split <;> rfl

-- The link operations act on the link alone: they commute with a change of registers.

@[simp] theorem nextDraw_onto (r l : State) : nextDraw (onto r l) = nextDraw l := rfl

@[simp] theorem envTurn_onto (r l : State) : envTurn (onto r l) = onto r (envTurn l) := rfl

@[simp] theorem linkFlush_onto (r l : State) : linkFlush (onto r l) = onto r (linkFlush l) := rfl

@[simp] theorem linkWrite_onto_fst (f : List Byte) (r l : State) : (linkWrite f (onto r l)).1 = (linkWrite f l).1 := rfl

@[simp] theorem linkWrite_onto_snd (f : List Byte) (r l : State) :
    (linkWrite f (onto r l)).2 = onto r (linkWrite f l).2 := rfl

@[simp] theorem linkAvail_onto_fst (r l : State) : (linkAvail (onto r l)).1 = (linkAvail l).1 := rfl

@[simp] theorem linkAvail_onto_snd (r l : State) : (linkAvail (onto r l)).2 = onto r (linkAvail l).2 := rfl

@[simp] theorem linkRead_onto_fst (n : Nat) (r l : State) : (linkRead n (onto r l)).1 = (linkRead n l).1 := by
  unfold linkRead; rw [nextDraw_onto]; split <;> rfl

@[simp] theorem linkRead_onto_snd (n : Nat) (r l : State) :
    (linkRead n (onto r l)).2 = onto r (linkRead n l).2 := by
  unfold linkRead; rw [nextDraw_onto]; split <;> rfl

end Sys2Proof.Machine
end

