-- ==== Sys2Proof/Laws/Engine.lean ====
section
/-! SUPPORT. What the engine's steps can do, said once per step. -/
namespace Sys2Proof.Machine

/-- What `Request` can answer (R100). -/
theorem stepRequest_cases (code : Code) (dst : Addr) (pay : List Byte) (s : State) :
    (s.phase ≠ .idle ∧ stepRequest code dst pay s = .fault .requestOutsideIdle) ∨
    (s.phase = .idle ∧ 240 < pay.length ∧ stepRequest code dst pay s = .refused .requestTooLong) ∨
    (s.phase = .idle ∧ pay.length ≤ 240 ∧ stepRequest code dst pay s = .next (accept code dst pay s)) := by
  unfold stepRequest
  by_cases h : s.phase = .idle
  · by_cases hl : Config.cmdDataMax < pay.length
    · exact .inr (.inl ⟨h, hl, by simp [h, hl]⟩)
    · exact .inr (.inr ⟨h, Nat.le_of_not_lt hl, by simp [h, hl]⟩)
  · exact .inl ⟨h, by simp [h]⟩

/-- `SettleDone` answers a next state only where it is enabled, with the frame of the request registers (R102). -/
theorem stepSettleDone_next {p : Params} {s t : State} (h : stepSettleDone p s = .next t) :
    s.phase = .settle ∧ s.tmr = p.tSettle ∧ ∃ f, buildCommand s = some f ∧ t = loadFrame f s := by
  unfold stepSettleDone at h
  split at h
  · rename_i hp
    split at h
    · rename_i f hf
      exact ⟨hp.1, hp.2, f, hf, by simpa using h.symm⟩
    · simp at h
  · simp at h

/-- `Write` answers a next state only in `WRITE` (R104). -/
theorem stepWrite_next {p : Params} {s t : State} (h : stepWrite p s = .next t) :
    s.phase = .write ∧
    (((linkWrite (txFrame s) s).1 = true ∧ t = startPolling p (linkWrite (txFrame s) s).2) ∨
     ((linkWrite (txFrame s) s).1 = false ∧ t = raise .ioError 0 (linkWrite (txFrame s) s).2)) := by
  unfold stepWrite at h
  split at h
  · rename_i hp
    refine ⟨hp, ?_⟩
    cases hw : (linkWrite (txFrame s) s).1 <;> simp [hw] at h <;> simp [h]
  · simp at h

/-- `Poll` answers a next state only where it is enabled (R105). -/
theorem stepPoll_next {p : Params} {s t : State} (h : stepPoll p s = .next t) :
    s.phase = .poll ∧ s.pollTmr = p.tPoll ∧ t = afterAvail p (linkAvail s).1 (linkAvail s).2 := by
  unfold stepPoll at h
  split at h
  · rename_i hp
    exact ⟨hp.1, hp.2, by simpa using h.symm⟩
  · simp at h

/-- `Read` answers a next state only in `READ` (R107). -/
theorem stepRead_next {p : Params} {s t : State} (h : stepRead p s = .next t) :
    s.phase = .read ∧ t = afterRead p (linkRead s.expLen.toNat s).1 (linkRead s.expLen.toNat s).2 := by
  unfold stepRead at h
  split at h
  · rename_i hp
    exact ⟨hp, by simpa using h.symm⟩
  · simp at h

/-- `Ack` answers a next state only in `DONE` (R109). -/
theorem stepAck_next {s t : State} (h : stepAck s = .next t) : s.phase = .done ∧ t = acknowledge s := by
  unfold stepAck at h
  split at h
  · rename_i hp
    exact ⟨hp, by simpa using h.symm⟩
  · simp at h

/-- `Tick` answers a next state only while no engine step is due (R110). -/
theorem stepTick_next {p : Params} {s t : State} (h : stepTick p s = .next t) : engineDue p s = false ∧ t = passTime s := by
  unfold stepTick at h
  cases hd : engineDue p s <;> simp [hd] at h
  exact ⟨rfl, h.symm⟩

/-- What a poll decides (R105): the four cases, in order. -/
theorem afterAvail_cases (p : Params) (a : Option Nat) (s : State) :
    (a = none ∧ afterAvail p a s = raise .ioError 0 s) ∨
    (∃ n, a = some n ∧ s.expLen.toNat ≤ n ∧ afterAvail p a s = { s with phase := .read }) ∨
    (∃ n, a = some n ∧ n < s.expLen.toNat ∧ p.tTimeout < s.elapsed ∧ afterAvail p a s = raise .timeout 0 s) ∨
    (∃ n, a = some n ∧ n < s.expLen.toNat ∧ s.elapsed ≤ p.tTimeout ∧ afterAvail p a s = { s with pollTmr := 0 }) := by
  unfold afterAvail
  cases a with
  | none => simp
  | some n =>
    by_cases h : s.expLen.toNat ≤ n
    · simp [h]
    · by_cases ht : p.tTimeout < s.elapsed
      · exact .inr (.inr (.inl ⟨n, rfl, by omega, ht, by simp [h, ht]⟩))
      · exact .inr (.inr (.inr ⟨n, rfl, by omega, by omega, by simp [h, ht]⟩))

/-- What a read that returned bytes leads to (R107, R108). -/
theorem afterRead_cases (p : Params) (b : Option (List Byte)) (s : State) :
    (b = none ∧ afterRead p b s = raise .ioError 0 s) ∨
    (∃ l, b = some l ∧ l.length < s.expLen.toNat ∧ afterRead p b s = raise .frameError l.length (storeReceived l s)) ∨
    (∃ l, b = some l ∧ s.expLen.toNat ≤ l.length ∧ decodeResponse p (rxFrame (storeReceived l s)) = none ∧
      afterRead p b s = raise .frameError (storeReceived l s).rxCnt.toNat (storeReceived l s)) ∨
    (∃ l r, b = some l ∧ s.expLen.toNat ≤ l.length ∧ decodeResponse p (rxFrame (storeReceived l s)) = some r ∧
      afterRead p b s = { storeReceived l s with rsp := r, resKind := .ok, resCount := 0, phase := .done }) := by
  unfold afterRead
  cases b with
  | none => simp
  | some l =>
    by_cases h : l.length < s.expLen.toNat
    · exact .inr (.inl ⟨l, rfl, h, by simp [h]⟩)
    · refine .inr (.inr ?_)
      simp only [h, if_false]
      unfold complete
      cases hd : decodeResponse p (rxFrame (storeReceived l s)) with
      | none => exact .inl ⟨l, rfl, by omega, hd, by simp⟩
      | some r => exact .inr ⟨l, r, rfl, by omega, hd, by simp⟩

/-- The bytes just read are the bytes `RXBUF[0 : RXCNT)` holds, for a read of at most 255. -/
theorem rxFrame_storeReceived {l : List Byte} (s : State) (h : l.length < 256) : rxFrame (storeReceived l s) = l := by
  simp [rxFrame, storeReceived, overwrite, Nat.mod_eq_of_lt h]

/-- The frame just loaded is the frame `TXBUF[0 : TXLEN)` holds, for a frame of at most 255 bytes (R26). -/
theorem txFrame_loadFrame {f : List Byte} (s : State) (h : f.length < 256) : txFrame (loadFrame f s) = f := by
  simp [txFrame, loadFrame, overwrite, Nat.mod_eq_of_lt h]

/-- What the machine's own next step is: the due engine step, or a `Tick` (R110). -/
theorem advance_cases (p : Params) (s : State) :
    (s.phase = .settle ∧ s.tmr = p.tSettle ∧ advance p s = stepSettleDone p s) ∨
    (s.phase = .write ∧ advance p s = stepWrite p s) ∨
    (s.phase = .poll ∧ s.pollTmr = p.tPoll ∧ advance p s = stepPoll p s) ∨
    (s.phase = .read ∧ advance p s = stepRead p s) ∨
    (engineDue p s = false ∧ advance p s = .next (passTime s)) := by
  unfold advance
  cases hp : s.phase <;> simp [engineDue, hp, stepTick]
  · by_cases h : s.tmr = p.tSettle <;> simp [h]
  · by_cases h : s.pollTmr = p.tPoll <;> simp [h]

/-- The end of a call answers only at `DONE`, with the result the registers hold (R109). -/
theorem finish_next {s : State} {x : TxResult × State} (h : finish s = .next x) :
    s.phase = .done ∧ txResult s = some x.1 ∧ x.2 = acknowledge s := by
  unfold finish at h
  split at h
  · rename_i r hp hr
    simp at h
    subst h
    exact ⟨hp, hr, rfl⟩
  · simp at h

/-- One step of a transaction's run. -/
theorem engineRun_succ {p : Params} {n : Nat} {s : State} (h : s.phase ≠ .done) :
    engineRun p (n + 1) s = andThen (advance p (envTurn s)) (engineRun p n) := by
  simp [engineRun, h]

/-- A run that has reached `DONE` stays there. -/
theorem engineRun_done {p : Params} {n : Nat} {s : State} (h : s.phase = .done) : engineRun p n s = .next s := by
  cases n <;> simp [engineRun, h]

/-- A property that every one of the machine's own steps and the environment keep holds at the end of a run. -/
theorem engineRun_induction {p : Params} {P : State → Prop} (henv : ∀ s, P s → P (envTurn s))
    (hadv : ∀ s t, P s → advance p s = .next t → P t) {n : Nat} {s t : State} (hs : P s)
    (h : engineRun p n s = .next t) : P t := by
  induction n generalizing s with
  | zero => simp [engineRun] at h; exact h ▸ hs
  | succ n ih =>
    by_cases hp : s.phase = .done
    · rw [engineRun_done hp] at h
      simp at h
      exact h ▸ hs
    · rw [engineRun_succ hp, andThen_eq_next] at h
      obtain ⟨u, hu, ht⟩ := h
      exact ih (hadv _ _ (henv _ hs) hu) ht

end Sys2Proof.Machine
end

