-- ==== Sys2Proof/Laws/Sequencer.lean ====
section
/-! SUPPORT. What a blocking operation keeps: a property that acceptance, the machine's own steps, the environment, `Ack`
and a returned value keep is kept by every transaction and by the acceptance test. -/
namespace Sys2Proof.Machine

/-- A meaning keeps a property of states. -/
def Keeps (P : State → Prop) (f : State → Out) : Prop := ∀ s t, P s → f s = .next t → P t

/-- A property that every part of a blocking operation keeps. -/
structure Steady (p : Params) (P : State → Prop) : Prop where
  env : ∀ s, P s → P (envTurn s)
  adv : ∀ s t, P s → advance p s = .next t → P t
  tick : ∀ s t, P s → stepTick p s = .next t → P t
  acc : ∀ code dst pay s, s.phase = .idle → pay.length ≤ 240 → P s → P (accept code dst pay s)
  ack : ∀ s, P s → P (acknowledge s)
  give : ∀ v s, P s → P (giveBack v s)

theorem Keeps.andThen {P : State → Prop} {f k : State → Out} (hf : Keeps P f) (hk : Keeps P k) :
    Keeps P (fun s => Machine.andThen (f s) k) := by
  intro s t hs e
  rw [andThen_eq_next] at e
  obtain ⟨u, hu, e⟩ := e
  exact hk _ _ (hf _ _ hs hu) e

variable {p : Params} {P : State → Prop}

/-- A whole transaction keeps it. -/
theorem Steady.call (h : Steady p P) {code : Code} {dst : Addr} {pay : List Byte} {s : State} {x : TxResult × State}
    (hs : P s) (e : call p code dst pay s = .next x) : P x.2 := by
  unfold Machine.call at e
  rw [andThen_eq_next] at e
  obtain ⟨t, ht, he⟩ := e
  rw [andThen_eq_next] at ht
  obtain ⟨u, hu, ht⟩ := ht
  obtain ⟨-, h2⟩ | ⟨-, -, h2⟩ | ⟨hp, hl, h2⟩ := stepRequest_cases code dst pay s
  · rw [h2] at hu; simp at hu
  · rw [h2] at hu; simp at hu
  · rw [h2] at hu; simp at hu; subst hu
    rw [(finish_next he).2.2]
    exact h.ack _ (engineRun_induction h.env h.adv (h.acc _ _ _ _ hp hl hs) ht)

theorem Steady.execute (h : Steady p P) (code : Code) (dst : Addr) (pay : List Byte) :
    Keeps P (execute p code dst pay) := by
  intro s t hs e
  unfold Machine.execute at e
  rw [andThen_eq_next] at e
  obtain ⟨x, hx, e⟩ := e
  simp at e; subst e
  exact h.give _ _ (h.call hs hx)

theorem Steady.hostWait (h : Steady p P) (n : Nat) : Keeps P (hostWait p n) := by
  intro s t hs e
  induction n generalizing s with
  | zero => simp [Machine.hostWait] at e; exact e ▸ hs
  | succ n ih =>
    simp only [Machine.hostWait, andThen_eq_next] at e
    obtain ⟨u, hu, e⟩ := e
    exact ih _ (h.tick _ _ (h.env _ hs) hu) e

theorem Steady.reportBack (h : Steady p P) (r : Report) : Keeps P (reportBack r) := by
  intro s t hs e; simp [Machine.reportBack] at e; exact e ▸ h.give _ _ hs

theorem Steady.tryCall (h : Steady p P) {code : Code} {a : Addr} {pay : List Byte} {k : Response → State → Out}
    (hk : ∀ r, Keeps P (k r)) : Keeps P (tryCall p code a pay k) := by
  intro s t hs e
  simp only [Machine.tryCall, andThen_eq_next] at e
  obtain ⟨x, hx, e⟩ := e
  have := h.call hs hx
  split at e
  · exact hk _ _ _ this e
  · exact h.reportBack _ _ _ this e

theorem Steady.trySetOutput (h : Steady p P) {a : Addr} {i : Fin 4} {on : Bool} {k : State → Out} (hk : Keeps P k) :
    Keeps P (trySetOutput p a i on k) := h.tryCall fun _ => hk

theorem Steady.checkInput (h : Steady p P) {a : Addr} {st : StepId} {e : Byte} {k : State → Out} (hk : Keeps P k) :
    Keeps P (checkInput p a st e k) := by
  apply h.tryCall
  intro r s t hs e
  split at e
  · exact hk _ _ hs e
  · exact h.reportBack _ _ _ hs e

theorem Steady.zeroOutputs (h : Steady p P) {a : Addr} {is : List (Fin 4)} {k : State → Out} (hk : Keeps P k) :
    Keeps P (zeroOutputs p a is k) := by
  induction is with
  | nil => exact hk
  | cons i is ih => exact h.trySetOutput ih

theorem Steady.toggleChannels (h : Steady p P) {a : Addr} {is : List (Fin 4)} {k : State → Out} (hk : Keeps P k) :
    Keeps P (toggleChannels p a is k) := by
  induction is with
  | nil => exact hk
  | cons i is ih =>
    exact h.trySetOutput ((h.hostWait _).andThen (h.checkInput (h.trySetOutput ((h.hostWait _).andThen ih))))

theorem Steady.acceptanceTest (h : Steady p P) (a : Addr) : Keeps P (acceptanceTest p a) :=
  h.tryCall fun _ => h.zeroOutputs (h.checkInput (h.toggleChannels (h.reportBack _)))

/-- A blocking operation keeps it. -/
theorem Steady.blocking (h : Steady Config.params P) {i : Instr} (hi : blocking i = true) : Keeps P (exec i) := by
  cases i <;> simp [Machine.blocking] at hi
  case acceptanceTest a => exact h.acceptanceTest a
  all_goals exact h.execute _ _ _

/-- Where a transaction has a step at all (R100). -/
theorem call_next {code : Code} {dst : Addr} {pay : List Byte} {s : State} {x : TxResult × State}
    (h : call p code dst pay s = .next x) : s.phase = .idle ∧ pay.length ≤ 240 := by
  obtain ⟨-, e⟩ | ⟨-, -, e⟩ | ⟨hp, hl, -⟩ := stepRequest_cases code dst pay s
  · simp [call, e] at h
  · simp [call, e] at h
  · exact ⟨hp, hl⟩

/-- A transaction leaves `PHASE` in `IDLE` (R109). -/
theorem call_idle {code : Code} {dst : Addr} {pay : List Byte} {s : State} {x : TxResult × State}
    (e : call p code dst pay s = .next x) : x.2.phase = .idle := by
  unfold call at e
  rw [andThen_eq_next] at e
  obtain ⟨t, ht, he⟩ := e
  rw [(finish_next he).2.2]; rfl

end Sys2Proof.Machine
end

