-- ==== Sys2Proof/Laws/Exec.lean ====
section
/-! SUPPORT. What exec can do, said once: for the codec's operations, for the transactions, and for each operation that is
not a blocking one. -/
namespace Sys2Proof.Machine

/-- An operation of the codec gives one value back whatever the state is, or is refused whatever the state is (R2). -/
theorem exec_codec {i : Instr} (h : codecOperation i = true) :
    (∃ v, ∀ s, exec i s = .next (giveBack v s)) ∨ (∃ r, ∀ s, exec i s = .refused r) := by
  cases i <;> simp [codecOperation] at h <;>
  first
  | exact .inl ⟨_, fun s => rfl⟩
  | (simp only [exec, execEncodeCommand]
     cases hh : encodeCommand _ <;> [exact .inr ⟨_, fun s => rfl⟩; exact .inl ⟨_, fun s => rfl⟩])
  | (simp only [exec, execEncodeUsual]
     cases hh : (encodeUsual _).map _ <;> [exact .inr ⟨_, fun s => rfl⟩; exact .inl ⟨_, fun s => rfl⟩])
  | (simp only [exec, execEncodeResponse]
     cases hh : encodeResponse _ _ <;> [exact .inr ⟨_, fun s => rfl⟩; exact .inl ⟨_, fun s => rfl⟩])

/-- Where a link primitive runs as an operation of its own, and what it does then (U8). -/
theorem onFreeLink_next {f : State → State} {s t : State} :
    onFreeLink f s = .next t ↔ busy s = false ∧ t = f s := by
  unfold onFreeLink; cases busy s <;> simp [eq_comm]

/-- `Execute` and the six command rows are one transaction (R79 to R84, R99). -/
theorem exec_transaction {i : Instr} {code : Code} {dst : Addr} {pay : List Byte}
    (h : transactionOf i = some (code, dst, pay)) (s : State) : exec i s = execute Config.params code dst pay s := by
  cases i <;> simp only [transactionOf, Option.some.injEq, Prod.mk.injEq, reduceCtorEq] at h <;>
    obtain ⟨rfl, rfl, rfl⟩ := h <;> rfl

/-- Everything an operation that is not a blocking one can do: a step of the host, the engine or time, a change of the
connection, or a change of the link, the choices and the returned value alone. -/
theorem exec_cases {i : Instr} {s t : State} (hb : blocking i = false) (e : exec i s = .next t) :
    (∃ c d q, i = .request c d q ∧ s.phase = .idle ∧ q.length ≤ 240 ∧ t = accept c d q s) ∨
    (i = .settleDone ∧ stepSettleDone Config.params s = .next t) ∨
    (i = .write ∧ stepWrite Config.params s = .next t) ∨
    (i = .poll ∧ stepPoll Config.params s = .next t) ∨
    (i = .read ∧ stepRead Config.params s = .next t) ∨
    (i = .ack ∧ s.phase = .done ∧ t = acknowledge s) ∨
    (i = .tick ∧ engineDue Config.params s = false ∧ t = passTime s) ∨
    (i = .connect ∧ s.phase = .idle ∧ t = { s with connOpen := true }) ∨
    (i = .disconnect ∧ s.phase = .idle ∧ t = { s with connOpen := false }) ∨
    (regsOf t = regsOf s ∧ t.now = s.now ∧ i ≠ .tick) := by
  cases hc : codecOperation i
  · cases i <;> simp [blocking, codecOperation] at hb hc
    case request code dst pay =>
      simp only [exec, execRequest] at e
      obtain ⟨-, h2⟩ | ⟨-, -, h2⟩ | ⟨hp, hl, h2⟩ := stepRequest_cases code dst pay s <;> rw [h2] at e <;> simp at e
      exact .inl ⟨_, _, _, rfl, hp, hl, e.symm⟩
    case settleDone => exact .inr (.inl ⟨rfl, e⟩)
    case write => exact .inr (.inr (.inl ⟨rfl, e⟩))
    case poll => exact .inr (.inr (.inr (.inl ⟨rfl, e⟩)))
    case read => exact .inr (.inr (.inr (.inr (.inl ⟨rfl, e⟩))))
    case ack => obtain ⟨a, b⟩ := stepAck_next e; simp [a, b]
    case tick => obtain ⟨a, b⟩ := stepTick_next e; simp [a, b]
    case connect =>
      simp only [exec, execConnect] at e; split at e <;> simp at e
      rename_i hp; iterate 7 right
      left; exact ⟨rfl, hp, e.symm⟩
    case disconnect =>
      simp only [exec, execDisconnect] at e; split at e <;> simp at e
      rename_i hp; iterate 8 right
      left; exact ⟨rfl, hp, e.symm⟩
    all_goals
      simp only [exec, execLinkFlush, execLinkWrite, execLinkAvail, execLinkRead, execEnvDeliver, execEnvDrain,
        onFreeLink_next, Host.Outcome.next.injEq] at e
      obtain ⟨-, rfl⟩ := e
      iterate 9 right
      refine ⟨by first | rfl | simp, by first | rfl | (simp [linkRead]; split <;> rfl), by simp⟩
  · obtain ⟨v, hv⟩ | ⟨r, hr⟩ := exec_codec hc
    · rw [hv] at e
      simp at e
      subst e
      iterate 9 right
      exact ⟨rfl, rfl, by rintro rfl; simp [codecOperation] at hc⟩
    · rw [hr] at e; simp at e

end Sys2Proof.Machine
end

