-- ==== Sys2Proof/Laws/Invariant.lean ====
section
/-! SUPPORT. Each shared operation and each step of the engine keeps the invariant of Safety.lean. -/
namespace Sys2Proof.Machine

/-- The invariant speaks of the registers alone. -/
theorem Inv.of_regs {p : Params} {s t : State} (h : Inv p s) (e : regsOf t = regsOf s) : Inv p t := by
  have h1 : Inv p (regsOf s) := ⟨h.1, h.2, h.3, h.4, h.5, h.6, h.7, h.8, h.9, h.10, h.11, h.12, h.13, h.14, h.15,
    h.16, h.17, h.18⟩
  rw [← e] at h1
  exact ⟨h1.1, h1.2, h1.3, h1.4, h1.5, h1.6, h1.7, h1.8, h1.9, h1.10, h1.11, h1.12, h1.13, h1.14, h1.15, h1.16,
    h1.17, h1.18⟩

/-- Entering an error keeps the invariant (R133). -/
theorem Inv.raise {p : Params} {s : State} (h : Inv p s) {k : ResKind} {n : Nat} (hk : k ≠ .none) (ho : k ≠ .ok)
    (hn : k ≠ .frameError → n = 0) (hc : n ≤ 18) : Inv p (raise k n s) :=
  { h with
    polling := by simp
    framed := by simp
    busy_none := by simp [busy]
    done_some := by simpa using hk
    count_zero := by simpa using hn
    count_le := by simpa [Config.rxCap] using hc
    ok_rsp := by simpa using fun h => absurd h ho
    connected := by simp [busy] }

/-- `Ack` keeps the invariant (R109). -/
theorem Inv.acknowledge {p : Params} {s : State} (h : Inv p s) : Inv p (acknowledge s) :=
  { h with
    polling := by simp
    framed := by simp
    busy_none := by simp [busy]
    done_some := by simp
    connected := by simp [busy] }

/-- Changing the connection outside a transaction keeps the invariant (R149). -/
theorem Inv.setConn {p : Params} {s : State} (h : Inv p s) (hp : s.phase = .idle) (b : Bool) :
    Inv p { s with connOpen := b } :=
  { h with connected := by simp [busy, hp] }

theorem expectedResponseLen_le (c : Code) : expectedResponseLen c ≤ 18 := by cases c <;> simp [expectedResponseLen]

/-- Accepting a request keeps the invariant (R100). -/
theorem Inv.accept {p : Params} {s : State} (h : Inv p s) {code : Code} {dst : Addr} {pay : List Byte}
    (hl : pay.length ≤ 240) : Inv p (accept code dst pay s) := by
  unfold Machine.accept
  split
  · rename_i hc
    have h1 : pay.length % 256 = pay.length := Nat.mod_eq_of_lt (by omega)
    have h2 : expectedResponseLen code % 256 = expectedResponseLen code :=
      Nat.mod_eq_of_lt (by have := expectedResponseLen_le code; omega)
    exact
      { h with
        reqPay_length := payloadBuffer_length (by omega)
        reqLen_le := by simpa [h1, Config.cmdDataMax] using hl
        reqPay_zero := by
          intro i hi
          simp [h1] at hi
          exact payloadBuffer_zero hi
        expLen_eq := by simp [h2]
        tmr_le := by simp
        polling := by simp
        framed := by simp
        busy_none := by simp
        done_some := by simp
        count_zero := by simp
        count_le := by simp
        ok_rsp := by simp
        connected := fun _ => hc }
  · exact Inv.raise h (k := .noConnection) (n := 0) (by simp) (by simp) (by simp) (by simp)

/-- `SettleDone` keeps the invariant (R102). -/
theorem Inv.settleDone {p : Params} {s t : State} (h : Inv p s) (e : stepSettleDone p s = .next t) : Inv p t := by
  obtain ⟨hp, -, f, hf, rfl⟩ := stepSettleDone_next e
  have hl : f.length ≤ 255 := by
    have hr := h.reqLen_le
    simp only [Config.cmdDataMax] at hr
    obtain ⟨g, hg, hgl⟩ := encodeCommand_some (c := requestedCommand s) (by simp [requestedCommand]; omega)
    simp only [buildCommand, hg, Option.some.injEq] at hf
    subst hf
    simp [requestedCommand] at hgl
    omega
  exact
    { h with
      txBuf_length := by
        have := h.txBuf_length
        simp only [Config.payloadCap] at this ⊢
        simp only [loadFrame_txBuf]
        rw [overwrite_length (by omega), this]
      polling := by simp
      framed := fun _ => by rw [txFrame_loadFrame s (by omega)]; exact hf
      busy_none := fun _ => h.busy_none (by simp [busy, hp])
      done_some := by simp
      connected := fun _ => h.connected (by simp [busy, hp]) }

/-- `Write` keeps the invariant (R104). -/
theorem Inv.write {p : Params} {s t : State} (h : Inv p s) (e : stepWrite p s = .next t) : Inv p t := by
  obtain ⟨hp, ⟨-, rfl⟩ | ⟨-, rfl⟩⟩ := stepWrite_next e
  · have h' : Inv p (linkWrite (txFrame s) s).2 := h.of_regs (by simp)
    exact
      { h' with
        pollTmr_le := by simp
        elapsed_le := by simp
        polling := by simp
        framed := by simp
        busy_none := fun _ => h.busy_none (by simp [busy, hp])
        done_some := by simp
        connected := fun _ => h.connected (by simp [busy, hp]) }
  · exact Inv.raise (h.of_regs (by simp)) (by simp) (by simp) (by simp) (by simp)

/-- `Poll` keeps the invariant (R105). -/
theorem Inv.poll {p : Params} {s t : State} (h : Inv p s) (e : stepPoll p s = .next t) : Inv p t := by
  obtain ⟨hp, hd, rfl⟩ := stepPoll_next e
  have h' : Inv p (linkAvail s).2 := h.of_regs (by simp)
  obtain ⟨-, e⟩ | ⟨n, -, -, e⟩ | ⟨n, -, -, -, e⟩ | ⟨n, -, -, ht, e⟩ := afterAvail_cases p (linkAvail s).1 (linkAvail s).2
  · rw [e]; exact Inv.raise h' (by simp) (by simp) (by simp) (by simp)
  · rw [e]
    exact
      { h' with
        polling := by simp
        framed := by simp
        busy_none := fun _ => h.busy_none (by simp [busy, hp])
        done_some := by simp
        connected := fun _ => h.connected (by simp [busy, hp]) }
  · rw [e]; exact Inv.raise h' (by simp) (by simp) (by simp) (by simp)
  · rw [e]
    exact
      { h' with
        pollTmr_le := by simp
        polling := fun _ => by simpa using ht
        framed := fun hw => by simp only [linkAvail, afterDraw_phase, hp] at hw; exact absurd hw (by simp)
        busy_none := fun _ => h.busy_none (by simp [busy, hp])
        done_some := fun hw => by simp only [linkAvail, afterDraw_phase, hp] at hw; exact absurd hw (by simp)
        connected := fun _ => h.connected (by simp [busy, hp]) }

/-- Filling `RXBUF` keeps the invariant (R107). -/
theorem Inv.storeReceived {p : Params} {s : State} (h : Inv p s) {l : List Byte} (hl : l.length ≤ s.expLen.toNat) :
    Inv p (storeReceived l s) := by
  have hx : l.length ≤ 18 := by
    have := h.expLen_eq
    have := expectedResponseLen_le s.reqCode
    omega
  exact
    { h with
      rxBuf_length := by
        have := h.rxBuf_length
        simp only [Config.rxCap] at this ⊢
        simp only [Machine.storeReceived]
        rw [overwrite_length (by omega), this]
      rxCnt_le := by simp [Machine.storeReceived, Config.rxCap]; omega }

/-- `Read` keeps the invariant (R107, R108). -/
theorem Inv.read {p : Params} {s t : State} (h : Inv p s) (e : stepRead p s = .next t) : Inv p t := by
  obtain ⟨hp, rfl⟩ := stepRead_next e
  have h' : Inv p (linkRead s.expLen.toNat s).2 := h.of_regs (by simp)
  have hx : (linkRead s.expLen.toNat s).2.expLen = s.expLen := by
    have e := congrArg State.expLen (regsOf_linkRead s.expLen.toNat s)
    exact e
  have hle : s.expLen.toNat ≤ 18 := by
    have := h.expLen_eq
    have := expectedResponseLen_le s.reqCode
    omega
  obtain ⟨-, e⟩ | ⟨l, hl, hlt, e⟩ | ⟨l, hl, hge, -, e⟩ | ⟨l, r, hl, hge, hd, e⟩ :=
    afterRead_cases p (linkRead s.expLen.toNat s).1 (linkRead s.expLen.toNat s).2
  · rw [e]; exact Inv.raise h' (by simp) (by simp) (by simp) (by simp)
  · have hr := linkRead_some hl
    rw [e]
    exact Inv.raise (h'.storeReceived (by rw [hx]; exact hr.1)) (by simp) (by simp) (by simp) (by omega)
  · have hr := linkRead_some hl
    rw [e]
    refine Inv.raise (h'.storeReceived (by rw [hx]; exact hr.1)) (by simp) (by simp) (by simp) ?_
    simp [Machine.storeReceived]; omega
  · have hr := linkRead_some hl
    have h2 := h'.storeReceived (l := l) (by rw [hx]; exact hr.1)
    rw [rxFrame_storeReceived _ (by omega)] at hd
    have hs := decodeResponse_some hd
    rw [e]
    exact
      { h2 with
        polling := by simp
        framed := by simp
        busy_none := by simp [busy]
        done_some := by simp
        count_zero := by simp
        count_le := by simp
        ok_rsp := fun _ => ⟨hs.1, by
          have : (Machine.storeReceived l (linkRead s.expLen.toNat s).2).expLen = s.expLen := hx
          simp only [Config.rspOverhead, this]
          omega⟩
        connected := by simp [busy] }

/-- A millisecond keeps the invariant, where it may pass (R110). -/
theorem Inv.passTime {p : Params} {s : State} (h : Inv p s) (hd : engineDue p s = false) : Inv p (passTime s) := by
  have h1 := h.tmr_le
  have h2 := h.pollTmr_le
  have h3 := h.elapsed_le
  have h4 := h.polling
  refine { h with tmr_le := ?_, pollTmr_le := ?_, elapsed_le := ?_, polling := ?_ }
  all_goals
    simp only [engineDue] at hd
    simp only [Machine.passTime]
    cases hp : s.phase <;> simp [hp] at hd h4 ⊢ <;> omega

/-- The machine's own next step keeps the invariant (R110). -/
theorem Inv.advance {p : Params} {s t : State} (h : Inv p s) (e : advance p s = .next t) : Inv p t := by
  obtain ⟨-, -, a⟩ | ⟨-, a⟩ | ⟨-, -, a⟩ | ⟨-, a⟩ | ⟨hd, a⟩ := advance_cases p s
  · exact h.settleDone (a ▸ e)
  · exact h.write (a ▸ e)
  · exact h.poll (a ▸ e)
  · exact h.read (a ▸ e)
  · rw [a] at e
    simp at e
    exact e ▸ h.passTime hd

end Sys2Proof.Machine
end

