-- ==== Sys2Proof/Laws/PerInstr.lean ====
section
/-! SUPPORT. A family of laws, one lemma per operation: the words of a well-formed operation begin with its lead byte, the
preamble for a Command's frame and the operation's own selector otherwise, so that the first byte selects the reader. -/
namespace Sys2Proof.Laws.Lead

open Sys2Proof.Machine

/-- The first word of a well-formed operation is its lead byte. -/
def Statement (i : Instr) : Prop := i.wf = true → (encode i).head? = some (leadByte i)

theorem command_lead {code : Code} {dst : Addr} {pay : List Byte} (h : commandPayload pay = true) :
    (commandWords code dst pay).head? = some 0x02 := by
  have hl : ¬ Config.cmdDataMax < pay.length := Nat.not_lt.mpr (of_decide_eq_true h)
  simp [commandWords, encodeCommand, hl, sealFrame, header, Config.preamble]

theorem readInput (dst : Addr) (pay : List Byte) : Statement (.readInput dst pay) := fun h => command_lead h
theorem setOutput (dst : Addr) (pay : List Byte) : Statement (.setOutput dst pay) := fun h => command_lead h
theorem setAddress (dst : Addr) (pay : List Byte) : Statement (.setAddress dst pay) := fun h => command_lead h
theorem readAddress (dst : Addr) (pay : List Byte) : Statement (.readAddress dst pay) := fun h => command_lead h
theorem readFirmwareVersion (dst : Addr) (pay : List Byte) : Statement (.readFirmwareVersion dst pay) :=
  fun h => command_lead h
theorem unknown (hi lo : Byte) (dst : Addr) (pay : List Byte) : Statement (.unknown hi lo dst pay) :=
  fun h => command_lead (Bool.and_eq_true_iff.mp h).2
theorem frameCmd (buf : List Byte) : Statement (.frameCmd buf) := fun _ => rfl
theorem frameRspUsual (buf : List Byte) : Statement (.frameRspUsual buf) := fun _ => rfl
theorem frameRspCpuid (dst src : Addr) : Statement (.frameRspCpuid dst src) := fun _ => rfl
theorem frameRspLegacy : Statement .frameRspLegacy := fun _ => rfl
theorem checksum (b : List Byte) : Statement (.checksum b) := fun _ => rfl
theorem codeFromBytes (hi lo : Byte) : Statement (.codeFromBytes hi lo) := fun _ => rfl
theorem codeCanonical (c : Code) : Statement (.codeCanonical c) := fun _ => rfl
theorem codeToBytes (c : Code) : Statement (.codeToBytes c) := fun _ => rfl
theorem codeValue16 (c : Code) : Statement (.codeValue16 c) := fun _ => rfl
theorem expectedResponseLen (c : Code) : Statement (.expectedResponseLen c) := fun _ => rfl
theorem encodeCommand (c : Command) : Statement (.encodeCommand c) := fun _ => rfl
theorem encodeResponse (r : Response) : Statement (.encodeResponse r) := fun _ => rfl
theorem encodeUsual (r : Response) : Statement (.encodeUsual r) := fun _ => rfl
theorem encodeCpuID (r : Response) : Statement (.encodeCpuID r) := fun _ => rfl
theorem encodeLegacyCipher (r : Response) : Statement (.encodeLegacyCipher r) := fun _ => rfl
theorem decodeCommand (buf : List Byte) : Statement (.decodeCommand buf) := fun _ => rfl
theorem decodeResponse (buf : List Byte) : Statement (.decodeResponse buf) := fun _ => rfl
theorem decodeReason (kind : FrameKind) (buf : List Byte) : Statement (.decodeReason kind buf) := fun _ => rfl
theorem execute (code : Code) (dst : Addr) (pay : List Byte) : Statement (.execute code dst pay) := fun _ => rfl
theorem request (code : Code) (dst : Addr) (pay : List Byte) : Statement (.request code dst pay) := fun _ => rfl
theorem settleDone : Statement .settleDone := fun _ => rfl
theorem write : Statement .write := fun _ => rfl
theorem poll : Statement .poll := fun _ => rfl
theorem read : Statement .read := fun _ => rfl
theorem ack : Statement .ack := fun _ => rfl
theorem tick : Statement .tick := fun _ => rfl
theorem linkFlush : Statement .linkFlush := fun _ => rfl
theorem linkWrite (bytes : List Byte) : Statement (.linkWrite bytes) := fun _ => rfl
theorem linkAvail : Statement .linkAvail := fun _ => rfl
theorem linkRead (n : Nat) : Statement (.linkRead n) := fun _ => rfl
theorem envDeliver (b : Byte) : Statement (.envDeliver b) := fun _ => rfl
theorem envDrain : Statement .envDrain := fun _ => rfl
theorem connect : Statement .connect := fun _ => rfl
theorem disconnect : Statement .disconnect := fun _ => rfl
theorem acceptanceTest (a : Addr) : Statement (.acceptanceTest a) := fun _ => rfl

end Sys2Proof.Laws.Lead
end

