-- ==== Sys2Proof/Laws/Sequential.lean ====
section
/-! SUPPORT. The waits of a transaction's run and of the sequential procedure (R99), said once. -/
namespace Sys2Proof.Machine

/-- A wait acts on the link, time and choices alone. -/
theorem waitMs_onto (k : Nat) (r l : State) : waitMs k (onto r l) = onto r (waitMs k l) := by
  induction k generalizing l with
  | zero => rfl
  | succ k ih => simp only [waitMs]; rw [← ih]; rfl

/-- The reply of the procedure depends on the link and choices alone. -/
theorem readReply_onto (p : Params) (n : Nat) (r l : State) :
    readReply p n (onto r l) = ((readReply p n l).1, onto r (readReply p n l).2) := by
  unfold readReply
  rw [linkRead_onto_fst, linkRead_onto_snd]
  split
  · rfl
  · split
    · rfl
    · split <;> rfl

/-- So does its poll loop. -/
theorem pollLoop_onto (p : Params) (n k t : Nat) (r l : State) :
    pollLoop p n k t (onto r l) = ((pollLoop p n k t l).1, onto r (pollLoop p n k t l).2) := by
  induction k generalizing t l with
  | zero => rfl
  | succ k ih =>
    unfold pollLoop
    rw [envTurn_onto, linkAvail_onto_fst, linkAvail_onto_snd]
    split
    · rfl
    · split
      · rw [envTurn_onto, readReply_onto]
      · split
        · rfl
        · rw [waitMs_onto, ih]

/-- The whole procedure depends on the connection, the link, the time and the choices alone, and touches no register. -/
theorem sequentialExecute_onto (p : Params) (code : Code) (dst : Addr) (pay : List Byte) (r l : State)
    (h : r.connOpen = l.connOpen) :
    sequentialExecute p code dst pay (onto r l) =
      ((sequentialExecute p code dst pay l).1, onto r (sequentialExecute p code dst pay l).2) := by
  have hc : (onto r l).connOpen = l.connOpen := h
  unfold sequentialExecute
  rw [hc]
  split
  · rw [linkFlush_onto, waitMs_onto, envTurn_onto, envTurn_onto]
    unfold writeAndPoll
    rw [linkWrite_onto_fst, linkWrite_onto_snd]
    split
    · rw [pollLoop_onto]
    · rfl
  · rfl

/-- A wait lasts its milliseconds. -/
theorem waitMs_now (k : Nat) (s : State) : (waitMs k s).now = s.now + k := by
  induction k generalizing s with
  | zero => rfl
  | succ k ih => simp only [waitMs, ih, tickMs_eq]; omega

/-- The settle wait of a run (R102, R110): `k` milliseconds of the procedure's wait, and `TMR` advanced by them. -/
theorem engineRun_settle {p : Params} (k m : Nat) (s : State) (h : s.phase = .settle) (ht : s.tmr + k = p.tSettle) :
    engineRun p (k + m) s = engineRun p m { onto s (waitMs k s) with tmr := s.tmr + k } := by
  induction k generalizing s with
  | zero => simp [waitMs]
  | succ k ih =>
    rw [show k + 1 + m = (k + m) + 1 by omega, engineRun_succ (by simp [h])]
    have hne : s.tmr ≠ p.tSettle := by omega
    have : advance p (envTurn s) = .next (passTime (envTurn s)) := by
      simp [advance, engineDue, h, hne, stepTick]
    rw [this, andThen_next, ih _ (by simp [h]) (by simp [passTime, h]; omega)]
    congr 1
    have e : passTime (envTurn s) = onto { s with tmr := s.tmr + 1 } { envTurn s with now := s.now + 1 } := by
      simp [passTime, onto, h, envTurn, afterTurn]
    rw [e, waitMs_onto]
    simp only [waitMs, onto]
    congr 1; omega

/-- The wait between two polls of a run (R105, R110). -/
theorem engineRun_poll {p : Params} (k m : Nat) (s : State) (h : s.phase = .poll) (ht : s.pollTmr + k = p.tPoll) :
    engineRun p (k + m) s =
      engineRun p m { onto s (waitMs k s) with pollTmr := s.pollTmr + k, elapsed := s.elapsed + k } := by
  induction k generalizing s with
  | zero => simp [waitMs]
  | succ k ih =>
    rw [show k + 1 + m = (k + m) + 1 by omega, engineRun_succ (by simp [h])]
    have hne : s.pollTmr ≠ p.tPoll := by omega
    have : advance p (envTurn s) = .next (passTime (envTurn s)) := by
      simp [advance, engineDue, h, hne, stepTick]
    rw [this, andThen_next, ih _ (by simp [h]) (by simp [passTime, h]; omega)]
    congr 1
    have e : passTime (envTurn s) =
        onto { s with pollTmr := s.pollTmr + 1, elapsed := s.elapsed + 1 } { envTurn s with now := s.now + 1 } := by
      simp [passTime, onto, h, envTurn, afterTurn]
    rw [e, waitMs_onto]
    simp only [waitMs, onto]
    congr 1 <;> omega

/-- The same, from the poll that decided to wait, with the registers and the link apart. -/
theorem engineRun_poll_onto {p : Params} (m : Nat) (r l : State) (h : r.phase = .poll) :
    engineRun p (p.tPoll + m) (onto { r with pollTmr := 0 } l) =
      engineRun p m (onto { r with pollTmr := p.tPoll, elapsed := r.elapsed + p.tPoll } (waitMs p.tPoll l)) := by
  rw [engineRun_poll _ _ (onto { r with pollTmr := 0 } l) h (by simp [onto]), waitMs_onto]
  simp [onto]

/-- The polls of `pollBound` reach past the budget (R106). -/
theorem budget_exceeded {p : Params} (hpos : 0 < p.tPoll) :
    p.tTimeout < (p.tTimeout / p.tPoll + 1) * p.tPoll := by
  have h1 := Nat.div_add_mod p.tTimeout p.tPoll
  have h2 := Nat.mod_lt p.tTimeout hpos
  rw [Nat.add_mul, Nat.mul_comm]; omega

end Sys2Proof.Machine
end

