-- ==== Sys2Proof/Tests/Slice0.lean ====
section
/-! SUPPORT. Tests: ill-formed operations refused, every operation's decoding by words written out, the spec's vectors
(95_test_vectors.md), and a witness for the hypotheses of every statement that has hypotheses. -/
namespace Sys2Proof.Tests

set_option Elab.async false

open Sys2Proof.Machine

/-- The address `A` of 95_test_vectors.md. -/
def addrA : Addr := ⟨0x14, 0x03, 0x01, 0x00⟩

/-- The address `Z` of 95_test_vectors.md. -/
def addrZ : Addr := ⟨0x00, 0x00, 0x00, 0x00⟩

/-- A condition on the next state an outcome gives. -/
def nextHas (o : Out) (f : State → Bool) : Bool :=
  match o with
  | .next s => f s
  | _ => false

/-- The fault an outcome is. -/
def faultOf (o : Out) : Option Fault :=
  match o with
  | .fault f => some f
  | _ => none

/-- The refusal an outcome is. -/
def refusalOf (o : Out) : Option Refusal :=
  match o with
  | .refused r => some r
  | _ => none

/-- What the decoder reads. -/
def readAs (l : List Byte) : Option (Instr × List Byte) := (decode l).toOption

/-- How the decoder rejects. -/
def rejects (l : List Byte) : Option DecodeReject :=
  match decode l with
  | .error e => some e
  | .ok _ => none

/-- A state with the stated fields and no choice left to the environment but those listed. -/
def st (phase : Phase) : State := { State.reset with phase := phase, rxq := [], txq := [] }

-- WellFormed: an ill-formed term for each check, refused by the check and by the decoder.

theorem test_illformed_readInput : (Instr.readInput addrA (zeros 241)).wf = false := by decide +kernel
theorem test_illformed_setOutput : (Instr.setOutput addrA (zeros 241)).wf = false := by decide +kernel
theorem test_illformed_setAddress : (Instr.setAddress addrA (zeros 241)).wf = false := by decide +kernel
theorem test_illformed_readAddress : (Instr.readAddress addrA (zeros 241)).wf = false := by decide +kernel
theorem test_illformed_readFirmwareVersion : (Instr.readFirmwareVersion addrA (zeros 241)).wf = false := by
  decide +kernel
theorem test_illformed_unknown_long : (Instr.unknown 0x12 0x34 addrA (zeros 241)).wf = false := by decide +kernel
theorem test_illformed_unknown_table_code : (Instr.unknown 0x01 0x01 addrA []).wf = false := by decide
theorem test_illformed_encodeCommand : (Instr.encodeCommand ⟨addrA, addrZ, .readInput, zeros 256⟩).wf = false := by
  decide +kernel
theorem test_illformed_encodeResponse :
    (Instr.encodeResponse ⟨addrZ, addrA, false, .usual, zeros 256⟩).wf = false := by decide +kernel
theorem test_illformed_encodeUsual_long :
    (Instr.encodeUsual ⟨addrZ, addrA, false, .usual, zeros 256⟩).wf = false := by decide +kernel
theorem test_illformed_encodeCpuID_long :
    (Instr.encodeCpuID ⟨addrZ, addrA, false, .cpuID, zeros 256⟩).wf = false := by decide +kernel
theorem test_illformed_encodeLegacyCipher_long :
    (Instr.encodeLegacyCipher ⟨addrZ, addrA, false, .legacyCipher, zeros 256⟩).wf = false := by decide +kernel
theorem test_illformed_rejected :
    rejects (0x32 :: putResponse ⟨addrZ, addrA, false, .usual, zeros 256⟩) = some .illFormed := by decide +kernel
-- R89 "defined for every record", R90 "the result is the same for every record": another shape is no ill-formed operand.
theorem test_wf_any_shape : (Instr.encodeUsual ⟨addrZ, addrA, false, .cpuID, []⟩).wf = true ∧
    (Instr.encodeCpuID ⟨addrZ, addrA, false, .usual, []⟩).wf = true ∧
    (Instr.encodeLegacyCipher ⟨addrZ, addrA, false, .cpuID, []⟩).wf = true := by decide
theorem test_rejects_empty : rejects [] = some .empty := by decide
theorem test_rejects_unassigned : rejects [0x00] = some (.unassigned 0x00) := by decide +kernel
theorem test_rejects_bad_operand : rejects [0x20, 0x02] = some .badOperand := by decide +kernel
-- A frame that is not there in full is the decoder's to reject (R92), no stop.
theorem test_decode_incomplete_frame : decode [0x02, 0x01, 0x0F] = .ok (.frameCmd [0x02, 0x01, 0x0F], []) := by rfl

-- Decoding. The frames are the spec's (R56 to R59, vectors V21 to V26, V32, T4); the selectors are log entry 3.

theorem test_decode_readInput :
    readAs [0x02, 0x01, 0x0F, 0x00, 0x14, 0x03, 0x01, 0x00, 0x00, 0x00, 0x00, 0x00, 0x01, 0x01, 0x2C] =
      some (.readInput addrA [], []) := by
  decide +kernel
theorem test_decode_setOutput :
    readAs [0x02, 0x01, 0x11, 0x00, 0x14, 0x03, 0x01, 0x00, 0x00, 0x00, 0x00, 0x00, 0xFF, 0x01, 0x02, 0x01, 0x2F] =
      some (.setOutput addrA [0x02, 0x01], []) := by
  decide +kernel
theorem test_decode_setAddress :
    readAs [0x02, 0x01, 0x13, 0x00, 0x14, 0x03, 0x01, 0x00, 0x00, 0x00, 0x00, 0x00, 0xFF, 0x03, 0x14, 0x03, 0x01, 0x00, 0x48] =
      some (.setAddress addrA [0x14, 0x03, 0x01, 0x00], []) := by
  decide +kernel
theorem test_decode_readAddress :
    readAs [0x02, 0x01, 0x0F, 0x00, 0x14, 0x03, 0x01, 0x00, 0x00, 0x00, 0x00, 0x00, 0xFF, 0x04, 0x2D] =
      some (.readAddress addrA [], []) := by
  decide +kernel
theorem test_decode_readFirmwareVersion :
    readAs [0x02, 0x01, 0x0F, 0x00, 0x14, 0x03, 0x01, 0x00, 0x00, 0x00, 0x00, 0x00, 0x40, 0x0A, 0x74] =
      some (.readFirmwareVersion addrA [], []) := by
  decide +kernel
theorem test_decode_unknown :
    readAs [0x02, 0x01, 0x12, 0x00, 0xDE, 0xAD, 0xBE, 0xEF, 0x00, 0x00, 0x00, 0x00, 0x12, 0x34, 0xAA, 0xBB, 0xCC, 0xC4] =
      some (.unknown 0x12 0x34 ⟨0xDE, 0xAD, 0xBE, 0xEF⟩ [0xAA, 0xBB, 0xCC], []) := by
  decide +kernel
theorem test_decode_frameCmd_other_station :
    readAs [0x02, 0x01, 0x11, 0x00, 0xDE, 0xAD, 0xBE, 0xEF, 0x01, 0x02, 0x03, 0x04, 0x12, 0x34, 0xAA, 0xBB, 0x01] =
      some (.frameCmd [0x02, 0x01, 0x11, 0x00, 0xDE, 0xAD, 0xBE, 0xEF, 0x01, 0x02, 0x03, 0x04, 0x12, 0x34, 0xAA, 0xBB, 0x01], []) := by
  decide +kernel
theorem test_decode_frameCmd_bad_checksum :
    readAs [0x02, 0x01, 0x0F, 0x00, 0x14, 0x03, 0x01, 0x00, 0x00, 0x00, 0x00, 0x00, 0xFF, 0x04, 0x2E] =
      some (.frameCmd [0x02, 0x01, 0x0F, 0x00, 0x14, 0x03, 0x01, 0x00, 0x00, 0x00, 0x00, 0x00, 0xFF, 0x04, 0x2E], []) := by
  decide +kernel
theorem test_decode_frameRspUsual_14 :
    readAs [0x02, 0x01, 0x0E, 0x00, 0x00, 0x00, 0x00, 0x00, 0x14, 0x03, 0x01, 0x00, 0x00, 0x29] =
      some (.frameRspUsual [0x02, 0x01, 0x0E, 0x00, 0x00, 0x00, 0x00, 0x00, 0x14, 0x03, 0x01, 0x00, 0x00, 0x29], []) := by
  decide +kernel
theorem test_decode_frameRspCpuid :
    readAs [0x02, 0x01, 0x12, 0x00, 0x00, 0x00, 0x00, 0x00, 0x14, 0x03, 0x01, 0x00, 0x00, 0x00, 0x00, 0x00, 0x00, 0x2D] =
      some (.frameRspCpuid addrZ addrA, []) := by
  decide +kernel
theorem test_decode_frameRspLegacy :
    readAs [0x02, 0x01, 0x02, 0x03, 0x04, 0x05, 0x06, 0x07, 0x08, 0x09, 0x0A, 0x0B, 0x0C, 0x0D, 0x0E, 0x0F, 0x10, 0x11, 0x12, 0x13, 0x14, 0xD4] =
      some (.frameRspLegacy, []) := by
  decide +kernel
theorem test_decode_frameCmd :
    readAs [0x10, 0x01, 0x02, 0x00] =
      some (.frameCmd [0x02], []) := by
  decide +kernel
theorem test_decode_frameRspUsual :
    readAs [0x11, 0x01, 0x02, 0x01, 0x01, 0x00] =
      some (.frameRspUsual [0x02, 0x01], []) := by
  decide +kernel
theorem test_decode_frameRspCpuid_selector :
    readAs [0x12, 0x09, 0x08, 0x07, 0x06, 0x14, 0x03, 0x01, 0x00] =
      some (.frameRspCpuid ⟨0x09, 0x08, 0x07, 0x06⟩ addrA, []) := by
  decide +kernel
theorem test_decode_frameRspLegacy_selector :
    readAs [0x13] =
      some (.frameRspLegacy, []) := by
  decide +kernel
theorem test_decode_checksum :
    readAs [0x20, 0x01, 0x01, 0x01, 0xFF, 0x00] =
      some (.checksum [0x01, 0xFF], []) := by
  decide +kernel
theorem test_decode_codeFromBytes :
    readAs [0x21, 0x40, 0x0A] =
      some (.codeFromBytes 0x40 0x0A, []) := by
  decide +kernel
theorem test_decode_codeCanonical :
    readAs [0x22, 0x05, 0x01, 0x01] =
      some (.codeCanonical (.unknown 0x01 0x01), []) := by
  decide +kernel
theorem test_decode_codeToBytes :
    readAs [0x23, 0x03] =
      some (.codeToBytes .readAddress, []) := by
  decide +kernel
theorem test_decode_codeValue16 :
    readAs [0x24, 0x02] =
      some (.codeValue16 .setAddress, []) := by
  decide +kernel
theorem test_decode_expectedResponseLen :
    readAs [0x25, 0x01] =
      some (.expectedResponseLen .setOutput, []) := by
  decide +kernel
theorem test_decode_encodeCommand :
    readAs [0x30, 0x14, 0x03, 0x01, 0x00, 0x01, 0x02, 0x03, 0x04, 0x00, 0x01, 0x55, 0x00] =
      some (.encodeCommand ⟨addrA, ⟨0x01, 0x02, 0x03, 0x04⟩, .readInput, [0x55]⟩, []) := by
  decide +kernel
theorem test_decode_encodeResponse :
    readAs [0x31, 0x00, 0x00, 0x00, 0x00, 0x14, 0x03, 0x01, 0x00, 0x01, 0x02, 0x00] =
      some (.encodeResponse ⟨addrZ, addrA, true, .legacyCipher, []⟩, []) := by
  decide +kernel
theorem test_decode_encodeUsual :
    readAs [0x32, 0x00, 0x00, 0x00, 0x00, 0x14, 0x03, 0x01, 0x00, 0x00, 0x00, 0x01, 0x04, 0x00] =
      some (.encodeUsual ⟨addrZ, addrA, false, .usual, [0x04]⟩, []) := by
  decide +kernel
theorem test_decode_encodeCpuID :
    readAs [0x33, 0x00, 0x00, 0x00, 0x00, 0x14, 0x03, 0x01, 0x00, 0x00, 0x01, 0x00] =
      some (.encodeCpuID ⟨addrZ, addrA, false, .cpuID, []⟩, []) := by
  decide +kernel
theorem test_decode_encodeLegacyCipher :
    readAs [0x34, 0x00, 0x00, 0x00, 0x00, 0x14, 0x03, 0x01, 0x00, 0x00, 0x02, 0x00] =
      some (.encodeLegacyCipher ⟨addrZ, addrA, false, .legacyCipher, []⟩, []) := by
  decide +kernel
theorem test_decode_decodeCommand :
    readAs [0x38, 0x01, 0x02, 0x00] =
      some (.decodeCommand [0x02], []) := by
  decide +kernel
theorem test_decode_decodeResponse :
    readAs [0x39, 0x00] =
      some (.decodeResponse [], []) := by
  decide +kernel
theorem test_decode_decodeReason :
    readAs [0x3A, 0x01, 0x01, 0x55, 0x00] =
      some (.decodeReason .rsp [0x55], []) := by
  decide +kernel
theorem test_decode_execute :
    readAs [0x40, 0x04, 0x14, 0x03, 0x01, 0x00, 0x00] =
      some (.execute .readFirmwareVersion addrA [], []) := by
  decide +kernel
theorem test_decode_request :
    readAs [0x41, 0x05, 0x12, 0x34, 0x14, 0x03, 0x01, 0x00, 0x01, 0xAA, 0x00] =
      some (.request (.unknown 0x12 0x34) addrA [0xAA], []) := by
  decide +kernel
theorem test_decode_settleDone :
    readAs [0x42] =
      some (.settleDone, []) := by
  decide +kernel
theorem test_decode_write :
    readAs [0x43] =
      some (.write, []) := by
  decide +kernel
theorem test_decode_poll :
    readAs [0x44] =
      some (.poll, []) := by
  decide +kernel
theorem test_decode_read :
    readAs [0x45] =
      some (.read, []) := by
  decide +kernel
theorem test_decode_ack :
    readAs [0x46] =
      some (.ack, []) := by
  decide +kernel
theorem test_decode_tick :
    readAs [0x47] =
      some (.tick, []) := by
  decide +kernel
theorem test_decode_linkFlush :
    readAs [0x50] =
      some (.linkFlush, []) := by
  decide +kernel
theorem test_decode_linkWrite :
    readAs [0x51, 0x01, 0x07, 0x00] =
      some (.linkWrite [0x07], []) := by
  decide +kernel
theorem test_decode_linkAvail :
    readAs [0x52] =
      some (.linkAvail, []) := by
  decide +kernel
theorem test_decode_linkRead :
    readAs [0x53, 0x01, 0x01, 0x00] =
      some (.linkRead 2, []) := by
  decide +kernel
theorem test_decode_envDeliver :
    readAs [0x54, 0x55] =
      some (.envDeliver 0x55, []) := by
  decide +kernel
theorem test_decode_envDrain :
    readAs [0x55] =
      some (.envDrain, []) := by
  decide +kernel
theorem test_decode_connect :
    readAs [0x60] =
      some (.connect, []) := by
  decide +kernel
theorem test_decode_disconnect :
    readAs [0x61] =
      some (.disconnect, []) := by
  decide +kernel
theorem test_decode_acceptanceTest :
    readAs [0x70, 0x14, 0x03, 0x01, 0x00] =
      some (.acceptanceTest addrA, []) := by
  decide +kernel
theorem test_decode_leaves_the_rest : readAs [0x47, 0x42, 0x43] = some (.tick, [0x42, 0x43]) := by decide +kernel
theorem test_table_word_cmd : decodeTableWord 32 0x02010000 = some (.frameCmd [0x02, 0x01, 0x00, 0x00]) := by
  decide +kernel
theorem test_table_word_cpuid : decodeTableWord 32 0x02011200 = some (.frameRspCpuid addrZ addrZ) := by decide +kernel
theorem test_table_word_legacy : decodeTableWord 8 0x02 = some .frameRspLegacy := by decide +kernel
theorem test_step_runs_table_word :
    nextHas (step (State.reset.withFetchWord 32 0x02011200)) (fun t => t.returned ==
      .frame [0x02, 0x01, 0x12, 0x00, 0, 0, 0, 0, 0, 0, 0, 0, 0, 0, 0, 0, 0, 0x15]) = true := by decide +kernel

-- The codec: vectors V1 to V58.

theorem test_V1_checksum_empty : checksum [] = 0x00 := by decide +kernel
theorem test_V2_checksum_wraps :
    checksum [0x02, 0x01, 0x0F, 0x00, 0x14, 0x03, 0x01, 0x00, 0x00, 0x00, 0x00, 0x00, 0xFF, 0x04] =
      0x2D := by decide +kernel
theorem test_V3_checksum_of_254_FF : checksum (List.replicate 254 0xFF) = 0x02 := by decide +kernel
theorem test_V7_codeFromBytes : codeFromBytes 0xFF 0x01 = .setOutput := by decide +kernel
theorem test_V11_codeFromBytes_swapped : codeFromBytes 0x01 0xFF = .unknown 0x01 0xFF := by decide +kernel
theorem test_V13_codeToBytes : codeToBytes (.unknown 0x12 0x34) = (0x12, 0x34) := by decide +kernel
theorem test_codeToBytes_readFirmwareVersion : codeToBytes .readFirmwareVersion = (0x40, 0x0A) := by decide +kernel
theorem test_V13_codeValue16 : codeValue16 (.unknown 0x12 0x34) = 0xFFFF := by decide +kernel
theorem test_codeValue16_setAddress : codeValue16 .setAddress = 0xFF03 := by decide +kernel
theorem test_V14_codeCanonical_table_bytes : codeCanonical (.unknown 0x01 0x01) = false := by decide +kernel
theorem test_V14_codeCanonical_other : codeCanonical (.unknown 0x12 0x34) = true := by decide +kernel
theorem test_V17_expectedResponseLen : expectedResponseLen .setOutput = 14 := by decide +kernel
theorem test_V20_expectedResponseLen : expectedResponseLen (.unknown 0x01 0x01) = 0 := by decide +kernel
theorem test_V26_encodeCommand :
    encodeCommand ⟨⟨0xDE, 0xAD, 0xBE, 0xEF⟩, ⟨0x01, 0x02, 0x03, 0x04⟩, .unknown 0x12 0x34, [0xAA, 0xBB, 0xCC]⟩ =
      some [0x02, 0x01, 0x12, 0x00, 0xDE, 0xAD, 0xBE, 0xEF, 0x01, 0x02, 0x03, 0x04, 0x12, 0x34, 0xAA, 0xBB, 0xCC, 0xCE] := by
  decide +kernel
theorem test_V27_encodeCommand_longest :
    (encodeCommand ⟨addrA, addrZ, .readInput, (List.range 240).map (BitVec.ofNat 8)⟩).map
      (fun f => (f.length, byteAt f 2, byteAt f 253, byteAt f 254)) = some (255, 0xFF, 0xEF, 0x24) := by decide +kernel
theorem test_V28_encodeCommand_refused : encodeCommand ⟨addrA, addrZ, .readInput, zeros 241⟩ = none := by decide +kernel
theorem test_V30_encodeUsual :
    encodeUsual ⟨addrZ, addrA, false, .usual, [0x04]⟩ =
      some [0x02, 0x01, 0x0F, 0x00, 0x00, 0x00, 0x00, 0x00, 0x14, 0x03, 0x01, 0x00, 0x00, 0x04, 0x2E] := by decide +kernel
theorem test_V31_encodeUsual_error :
    encodeUsual ⟨addrZ, addrA, true, .usual, []⟩ = some [0x02, 0x01, 0x0E, 0x00, 0x00, 0x00, 0x00, 0x00, 0x14, 0x03, 0x01, 0x00, 0x01, 0x2A] := by
  decide +kernel
theorem test_encodeUsual_longest :
    (encodeUsual ⟨addrZ, addrA, false, .usual, (List.range 241).map (BitVec.ofNat 8)⟩).map
      (fun f => (f.length, byteAt f 2, byteAt f 254)) = some (255, 0xFF, 0x12) := by decide +kernel
theorem test_V34_encodeCpuID :
    encodeCpuID ⟨⟨0x09, 0x08, 0x07, 0x06⟩, addrA, true, .cpuID, [0x55]⟩ =
      [0x02, 0x01, 0x12, 0x00, 0x09, 0x08, 0x07, 0x06, 0x14, 0x03, 0x01, 0x00, 0x00, 0x00, 0x00, 0x00, 0x00, 0x4B] := by decide +kernel

/-- The machine's parameters with a policy and the placeholder body of V33, and the illustrative payloads of R118. -/
def par (pol : ErrFlagPolicy) : Params :=
  { Config.params with
    errFlagPolicy := pol
    legacyTail := ⟨((List.range 20).map fun n => BitVec.ofNat 8 (n + 1)).toArray, by simp⟩
    paySetOutput := fun i on => [BitVec.ofNat 8 i, if on then 0x01 else 0x00]
    paySetAddress := addrBytes }

theorem test_V33_encodeLegacyCipher :
    encodeLegacyCipher (par .alwaysFalse) = 0x02 :: (List.range 20).map (fun n => BitVec.ofNat 8 (n + 1)) ++ [0xD4] := by
  decide +kernel

/-- The frame V21. -/
def v21 : List Byte := [0x02, 0x01, 0x0F, 0x00, 0x14, 0x03, 0x01, 0x00, 0x00, 0x00, 0x00, 0x00, 0xFF, 0x04, 0x2D]

/-- The frame V30. -/
def v30 : List Byte := [0x02, 0x01, 0x0F, 0x00, 0x00, 0x00, 0x00, 0x00, 0x14, 0x03, 0x01, 0x00, 0x00, 0x04, 0x2E]

/-- The frame V29, the bare acknowledgement. -/
def v29 : List Byte := [0x02, 0x01, 0x0E, 0x00, 0x00, 0x00, 0x00, 0x00, 0x14, 0x03, 0x01, 0x00, 0x00, 0x29]

/-- The frame V31, with its error flag set. -/
def v31 : List Byte := [0x02, 0x01, 0x0E, 0x00, 0x00, 0x00, 0x00, 0x00, 0x14, 0x03, 0x01, 0x00, 0x01, 0x2A]

theorem test_V35_decodeCommand : decodeCommand v21 = some ⟨addrA, addrZ, .readAddress, []⟩ := by decide +kernel
theorem test_V42_decodeCommand_bytes_1_and_3 :
    decodeCommand [0x02, 0x7F, 0x0F, 0x55, 0x14, 0x03, 0x01, 0x00, 0x00, 0x00, 0x00, 0x00, 0xFF, 0x04, 0x00] =
      some ⟨addrA, addrZ, .readAddress, []⟩ := by decide +kernel
theorem test_V44_decodeCommand :
    decodeCommand [0x02, 0x01, 0x12, 0x00, 0xDE, 0xAD, 0xBE, 0xEF, 0x01, 0x02, 0x03, 0x04, 0x12, 0x34, 0xAA, 0xBB, 0xCC, 0xCE] =
      some ⟨⟨0xDE, 0xAD, 0xBE, 0xEF⟩, ⟨0x01, 0x02, 0x03, 0x04⟩, .unknown 0x12 0x34, [0xAA, 0xBB, 0xCC]⟩ := by
  decide +kernel
theorem test_V36_undersized : decodeReason .cmd (v21.take 14) = some .undersized := by decide +kernel
theorem test_V37_badPreamble : decodeReason .cmd (v21.set 0 0x03) = some .badPreamble := by decide +kernel
theorem test_V38_badLength : decodeReason .cmd (v21.set 2 0x0E) = some .badLength := by decide +kernel
theorem test_V39_truncated : decodeReason .cmd (v21.set 2 0x10) = some .truncated := by decide +kernel
theorem test_V41_badChecksum : decodeReason .cmd (v21.set 14 0x2E) = some .badChecksum := by decide +kernel
theorem test_V54_truncated_response : decodeReason .rsp (v30.take 14) = some .truncated := by decide +kernel
theorem test_V47_decodeCommand_crafted_length :
    decodeCommand (v21 ++ [0x5B]) = some ⟨addrA, addrZ, .readAddress, []⟩ := by decide +kernel
theorem test_V48_decodeResponse (pol : ErrFlagPolicy) :
    decodeResponse (par pol) v30 = some ⟨addrZ, addrA, false, .usual, [0x04]⟩ := by cases pol <;> decide +kernel
theorem test_V50_decodeResponse :
    decodeResponse (par .alwaysFalse) v31 = some ⟨addrZ, addrA, false, .usual, []⟩ := by decide +kernel
theorem test_V51_decodeResponse :
    decodeResponse (par .faithful) v31 = some ⟨addrZ, addrA, true, .usual, []⟩ := by decide +kernel
theorem test_V55_decodeResponse_trailing (pol : ErrFlagPolicy) :
    decodeResponse (par pol) (v29 ++ [0x99]) = some ⟨addrZ, addrA, false, .usual, []⟩ := by
  cases pol <;> decide +kernel
theorem test_be32 : be32 addrA = 0x14030100 := by decide

-- Engine steps.

/-- A draw that lets a link primitive succeed, with every byte it asks for. -/
def okDraw : Draw := ⟨true, 255⟩

/-- A turn in which the environment does nothing. -/
def quiet : EnvTurn := ⟨[], 0⟩

/-- A connected machine in `IDLE` with one stale byte (R116), `n` successful answers of the link, and the turns given. -/
def ready (n : Nat) (turns : List EnvTurn) : State :=
  { st .idle with connOpen := true, rxq := [0x55], draws := List.replicate n okDraw, turns := turns }

/-- Turns in which the bytes arrive before step `n` after the request, and nothing else happens. -/
def arriving (n : Nat) (b : List Byte) : List EnvTurn :=
  List.replicate n quiet ++ [⟨b, 0⟩] ++ List.replicate 260 quiet

theorem test_request :
    nextHas (execRequest .readInput addrA [] (ready 0 [])) (fun t => t.phase == .settle && t.rxq == [] &&
      t.expLen == 15 && t.reqDst == addrA && t.reqPay == zeros 255 && t.tmr == 0) = true := by decide +kernel
theorem test_T7_request_without_connection :
    nextHas (execRequest .readInput addrA [] { st .idle with rxq := [0x55] }) (fun t =>
      t.phase == .done && t.resKind == .noConnection && t.rxq == [0x55]) = true := by decide +kernel
theorem test_settleDone :
    nextHas (execSettleDone { st .settle with tmr := 20, reqCode := .readAddress, reqDst := addrA }) (fun t =>
      t.phase == .write && t.txLen == 15 && txFrame t == v21) = true := by decide +kernel
theorem test_settleDone_early : faultOf (execSettleDone { st .settle with tmr := 19 }) = some .settleDoneNotEnabled := by
  decide
theorem test_write :
    nextHas (execWrite { st .write with txBuf := v21 ++ zeros 240, txLen := 15, draws := [okDraw] }) (fun t =>
      t.phase == .poll && t.txq == v21 && t.pollTmr == 10 && t.elapsed == 0 && t.draws == []) = true := by
  decide +kernel
theorem test_write_fails :
    nextHas (execWrite { st .write with txBuf := v21 ++ zeros 240, txLen := 15, draws := [⟨false, 99⟩] }) (fun t =>
      t.phase == .done && t.resKind == .ioError && t.txq == v21.take 14) = true := by decide +kernel
theorem test_poll_timeout_is_strict :
    nextHas (execPoll { st .poll with pollTmr := 10, elapsed := 200, expLen := 15, draws := [okDraw] }) (fun t =>
      t.phase == .poll && t.pollTmr == 0) = true := by decide +kernel
theorem test_poll_bytes_win_over_timeout :
    nextHas (execPoll { st .poll with pollTmr := 10, elapsed := 210, expLen := 15, draws := [okDraw], rxq := v30 })
      (fun t => t.phase == .read && t.rxq == v30) = true := by decide +kernel
theorem test_T5_read_short :
    nextHas (execRead { st .read with expLen := 15, draws := [⟨true, 9⟩], rxq := v30 }) (fun t =>
      t.resKind == .frameError && t.resCount == 9 && t.rxq == v30.drop 9 && t.rxCnt == 9) = true := by decide +kernel
/-- A machine about to read its reply. -/
def reading (d : Draw) (rxq : List Byte) : State := { st .read with expLen := 15, draws := [d], rxq := rxq }

theorem test_read_takes_the_reply : nextHas (execRead (reading okDraw v30)) (fun t => t.rsp.src == addrA) = true := by
  decide +kernel
theorem test_T8_read_shifted :
    nextHas (execRead { st .read with expLen := 15, draws := [okDraw], rxq := 0x55 :: v30 }) (fun t =>
      t.resKind == .frameError && t.resCount == 15 && t.rxq == [0x2E]) = true := by decide +kernel
theorem test_ack : nextHas (execAck { st .done with resKind := .timeout }) (fun t =>
    t.phase == .idle && t.resKind == .timeout) = true := by decide
theorem test_tick_polling : nextHas (execTick { st .poll with pollTmr := 9, elapsed := 19 }) (fun t =>
    t.pollTmr == 10 && t.elapsed == 20 && t.now == 1 && t.tmr == 0) = true := by decide
theorem test_tick_urgent : faultOf (execTick (st .write)) = some .tickNotEnabled := by decide
theorem test_linkFlush : nextHas (execLinkFlush { st .idle with rxq := [0x01], txq := [0x02] }) (fun t =>
    t.rxq == [] && t.txq == []) = true := by decide
theorem test_linkWrite_fails_on_one_byte : nextHas (execLinkWrite [0x07] { st .idle with draws := [⟨false, 1⟩] })
    (fun t => t.txq == [] && t.returned == .written false) = true := by decide
theorem test_linkAvail : nextHas (execLinkAvail { st .idle with rxq := [0x01, 0x02], draws := [okDraw] }) (fun t =>
    t.returned == .available (some 2) && t.rxq == [0x01, 0x02]) = true := by decide
theorem test_linkRead : nextHas (execLinkRead 2 { st .idle with rxq := [0x01, 0x02, 0x03], draws := [okDraw] }) (fun t =>
    t.returned == .received (some [0x01, 0x02]) && t.rxq == [0x03]) = true := by decide
theorem test_link_in_use : execLinkRead 2 (st .poll) = .refused .linkInUse ∧ execLinkFlush (st .settle) = .refused .linkInUse :=
  ⟨rfl, rfl⟩
-- R88 for a record of another shape: the operation completes, and its frame is free.
theorem test_encodeUsual_other_shape : execEncodeUsual ⟨addrZ, addrA, false, .cpuID, []⟩ (st .idle) =
    .next { st .idle with returned := .frame (Config.freeUsualFrame ⟨addrZ, addrA, false, .cpuID, []⟩) } := by rfl
theorem test_envDeliver : nextHas (execEnvDeliver 0x02 { st .poll with rxq := [0x01] }) (fun t =>
    t.rxq == [0x01, 0x02]) = true := by decide
theorem test_envDrain : nextHas (execEnvDrain { st .poll with txq := [0x01, 0x02] }) (fun t => t.txq == [0x02]) = true := by
  decide
theorem test_connect : nextHas (execConnect (st .idle)) (fun t => t.connOpen) = true := by decide
theorem test_connect_busy : refusalOf (execConnect (st .poll)) = some .connectOutsideIdle := by decide
theorem test_disconnect : nextHas (execDisconnect { st .idle with connOpen := true }) (fun t => !t.connOpen) = true := by
  decide
theorem test_frameCmd : nextHas (execFrameCmd v21 (st .idle)) (fun t =>
    t.returned == .cmdFormat (some ⟨addrA, addrZ, .readAddress, []⟩) (some v21)) = true := by decide +kernel
theorem test_frameRspUsual_no_frame : nextHas (execFrameRspUsual [0x02] (st .idle)) (fun t =>
    t.returned == .rspFormat none none) = true := by decide +kernel

-- Whole transactions: traces T1 to T12, programs P2 and P3, each as one step.

theorem test_T1_readInput :
    nextHas (execReadInput addrA [] (ready 7 (arriving 61 v30))) (fun t =>
      t.returned == .result (.ok ⟨addrZ, addrA, false, .usual, [0x04]⟩) && t.now == 60 && t.phase == .idle &&
      t.rxq == [] && t.draws == []) = true := by decide +kernel
theorem test_T2_readInput_silent :
    nextHas (execReadInput addrA [] (ready 23 (arriving 250 []))) (fun t =>
      t.returned == .result (.err .timeout) && t.now == 230 && t.draws == [] &&
      t.txq == [0x02, 0x01, 0x0F, 0x00, 0x14, 0x03, 0x01, 0x00, 0x00, 0x00, 0x00, 0x00, 0x01, 0x01, 0x2C]) = true := by
  decide +kernel
theorem test_T3_execute_write_fails :
    nextHas (execExecute .readInput addrA [] { ready 0 (arriving 250 []) with draws := [⟨false, 3⟩] }) (fun t =>
      t.returned == .result (.err .ioError) && t.now == 20 && t.txq == v21.take 3) = true := by decide +kernel
theorem test_T4_unknown :
    nextHas (execUnknown 0x12 0x34 addrA [0xAA] (ready 3 (arriving 250 []))) (fun t =>
      t.returned == .result (.err (.frameError 0)) && t.now == 20 &&
      t.txq == [0x02, 0x01, 0x10, 0x00, 0x14, 0x03, 0x01, 0x00, 0x00, 0x00, 0x00, 0x00, 0x12, 0x34, 0xAA, 0x1B]) = true := by
  decide +kernel
theorem test_T11_setOutput :
    nextHas (execSetOutput addrA [0x02, 0x01] (ready 6 (arriving 50 v29))) (fun t =>
      t.returned == .result (.ok ⟨addrZ, addrA, false, .usual, []⟩) && t.now == 50) = true := by decide +kernel
theorem test_T15_readAddress :
    nextHas (execReadAddress addrA [] (ready 8 (arriving 72
      [0x02, 0x01, 0x12, 0x00, 0x00, 0x00, 0x00, 0x00, 0x14, 0x03, 0x01, 0x00, 0x00, 0x14, 0x03, 0x01, 0x00, 0x45])))
      (fun t => t.returned == .result (.ok ⟨addrZ, addrA, false, .usual, [0x14, 0x03, 0x01, 0x00]⟩) &&
      t.now == 70) = true := by decide +kernel
theorem test_readFirmwareVersion_writes_V23 :
    nextHas (execReadFirmwareVersion addrA [] { ready 0 (arriving 250 []) with draws := [okDraw, ⟨false, 0⟩] }) (fun t =>
      t.returned == .result (.err .ioError) &&
      t.txq == [0x02, 0x01, 0x0F, 0x00, 0x14, 0x03, 0x01, 0x00, 0x00, 0x00, 0x00, 0x00, 0x40, 0x0A, 0x74]) = true := by
  decide +kernel
theorem test_setAddress_writes_V25 :
    nextHas (execSetAddress addrA (addrBytes addrA) { ready 0 (arriving 250 []) with draws := [okDraw, ⟨false, 0⟩] })
      (fun t => t.returned == .result (.err .ioError) && t.txq ==
      [0x02, 0x01, 0x13, 0x00, 0x14, 0x03, 0x01, 0x00, 0x00, 0x00, 0x00, 0x00, 0xFF, 0x03, 0x14, 0x03, 0x01, 0x00, 0x48]) = true := by
  decide +kernel

/-- A reply of one payload byte, as the programs of 95_test_vectors.md assume it. -/
def inputReply (b : Byte) : List Byte := sealFrame ([0x02, 0x01, 0x0F, 0, 0, 0, 0, 0, 0x14, 0x03, 0x01, 0, 0, b])

/-- The turns of one transaction of the programs: the reply is complete 40 ms after the write. -/
def answered (r : List Byte) : List EnvTurn := List.replicate 60 quiet ++ [⟨r, 0⟩] ++ List.replicate 7 quiet

/-- The turns of a wait of 100 ms. -/
def relayWait : List EnvTurn := List.replicate 100 quiet

/-- The turns of one channel of the acceptance test, its input reading `b`. -/
def channelTurns (b : Byte) : List EnvTurn :=
  answered v29 ++ relayWait ++ answered (inputReply b) ++ answered v29 ++ relayWait

/-- The turns of the acceptance test, the four inputs reading as given. -/
def testTurns (b0 b1 b2 b3 : Byte) : List EnvTurn :=
  answered (inputReply 0) ++ answered v29 ++ answered v29 ++ answered v29 ++ answered v29 ++ answered (inputReply 0) ++
  channelTurns b0 ++ channelTurns b1 ++ channelTurns b2 ++ channelTurns b3

theorem test_P2_acceptanceTest :
    nextHas (acceptanceTest (par .alwaysFalse) addrA (ready 126 (testTurns 0x01 0x02 0x04 0x08))) (fun t =>
      t.returned == .report .success && t.now == 1880 && t.turns == [] && t.draws == []) = true := by decide +kernel
theorem test_P3_acceptanceTest_channel_2 :
    nextHas (acceptanceTest (par .alwaysFalse) addrA (ready 126 (testTurns 0x01 0x02 0x00 0x08))) (fun t =>
      t.returned == .report (.verificationFailure (.channel 2) 0x04 0x00) && t.now == 1340 && t.phase == .idle) = true := by
  decide +kernel

-- Witnesses: for every statement of Obligations.lean that has hypotheses, states and operands that meet them together,
-- each clause at a boundary of its range.

theorem nextHas_exists {o : Out} {f : State → Bool} (h : nextHas o f = true) : ∃ t, o = .next t ∧ f t = true := by
  cases o with
  | next t => exact ⟨t, rfl, h⟩
  | fault f => simp [nextHas] at h
  | refused r => simp [nextHas] at h

/-- A machine between two polls: `ReadInput` is in flight and a poll is due. -/
def polling : State :=
  { st .poll with
    connOpen := true
    reqCode := .readInput
    expLen := 15
    pollTmr := 10
    elapsed := 200
    draws := [okDraw] }

theorem byteAt_zero_fill (n i : Nat) : byteAt (zeros n) i = 0 := by
  unfold byteAt zeros
  rw [List.getD_eq_getElem?_getD, List.getElem?_replicate]
  split <;> rfl

theorem polling_inv : Inv Config.params polling where
  reqPay_length := by decide +kernel
  reqLen_le := by decide
  reqPay_zero := fun i _ => byteAt_zero_fill _ i
  expLen_eq := rfl
  txBuf_length := by decide +kernel
  rxBuf_length := by decide +kernel
  rxCnt_le := by decide
  tmr_le := by decide
  pollTmr_le := by decide
  elapsed_le := by decide
  polling := fun _ => by decide
  framed := fun h => absurd h (by decide)
  busy_none := fun _ => rfl
  done_some := fun h => absurd h (by decide)
  count_zero := fun _ => rfl
  count_le := by decide
  ok_rsp := fun h => absurd h (by decide)
  connected := fun _ => rfl

theorem witness_EveryStepKeepsTheInvariant : ∃ s t, Inv Config.params s ∧ step s = .next t ∧ t.draws ≠ s.draws :=
  ⟨polling, _, polling_inv, rfl, by decide⟩

theorem witness_PhaseMoves_blocking : ∃ i s t, exec i s = .next t ∧ blocking i = true := by
  obtain ⟨t, h, -⟩ := nextHas_exists test_T4_unknown
  exact ⟨.unknown 0x12 0x34 addrA [0xAA], _, t, h, rfl⟩

theorem witness_PhaseMoves_step : ∃ i s t, exec i s = .next t ∧ blocking i = false ∧ t.phase ≠ s.phase :=
  ⟨.ack, st .done, _, rfl, rfl, by decide⟩

theorem witness_OnlyConnectAndDisconnectMoveTheConnection :
    ∃ i s t, exec i s = .next t ∧ t.connOpen ≠ s.connOpen := ⟨.connect, st .idle, _, rfl, by decide⟩

theorem witness_RecordsAreWritten :
    ∃ i s t, blocking i = false ∧ exec i s = .next t ∧ (∀ c d q, i ≠ .request c d q) ∧ t.rsp ≠ s.rsp := by
  obtain ⟨t, h, ht⟩ := nextHas_exists test_read_takes_the_reply
  exact ⟨.read, _, t, rfl, h, by simp, fun e => by rw [e] at ht; exact absurd ht (by decide)⟩

theorem witness_OnlyTimeMovesNow : ∃ i s t, exec i s = .next t ∧ i ≠ .tick ∧ blocking i = false :=
  ⟨.linkFlush, st .idle, _, rfl, by decide, rfl⟩

theorem witness_CodecOperationsArePure : ∃ i s t, codecOperation i = true ∧ exec i s = .next t :=
  ⟨.checksum [0x01], st .poll, _, rfl, rfl⟩

theorem witness_CodecOperationsComplete : ∃ i, codecOperation i = true ∧ encodable i = true ∧ i ≠ .frameRspLegacy :=
  ⟨.encodeUsual ⟨addrZ, addrA, true, .cpuID, zeros 241⟩, rfl, by decide +kernel, by decide⟩

theorem witness_CodeFromBytes_unknown :
    ((0x00, 0x00) ∉ tableBytes) ∧ ((0xFF, 0xFF) ∉ tableBytes) ∧ ((0xFF, 0x02) ∉ tableBytes) ∧ (0x01, 0xFF) ∉ tableBytes := by
  decide

theorem witness_EncodeCommand_admitted : ∃ c : Command, c.payload.length = 240 ∧ c.payload.length ≤ 240 :=
  ⟨⟨addrA, addrZ, .readInput, zeros 240⟩, by decide +kernel, by decide +kernel⟩

theorem witness_EncodeCommand_refused : ∃ c : Command, c.payload.length = 241 ∧ 240 < c.payload.length :=
  ⟨⟨addrA, addrZ, .readInput, zeros 241⟩, by decide +kernel, by decide +kernel⟩

theorem witness_EncodeUsual_admitted : ∃ r : Response, r.shape = .usual ∧ r.payload.length = 241 ∧ r.payload.length ≤ 241 :=
  ⟨⟨addrZ, addrA, true, .usual, zeros 241⟩, rfl, by decide +kernel, by decide +kernel⟩

theorem witness_EncodeUsual_refused : ∃ r : Response, r.shape = .usual ∧ r.payload.length = 242 ∧ 241 < r.payload.length :=
  ⟨⟨addrZ, addrA, true, .usual, zeros 242⟩, rfl, by decide +kernel, by decide +kernel⟩

theorem witness_EncodeResponse_others : (∃ r : Response, r.shape = .cpuID) ∧ ∃ r : Response, r.shape = .legacyCipher :=
  ⟨⟨⟨addrZ, addrA, true, .cpuID, [0x01]⟩, rfl⟩, ⟨addrZ, addrA, true, .legacyCipher, [0x01]⟩, rfl⟩

theorem witness_EncodeResponse_usual : ∃ r : Response, r.shape = .usual ∧ r.payload.length ≤ 241 :=
  ⟨⟨addrZ, addrA, true, .usual, []⟩, rfl, by decide⟩

theorem witness_EveryEncodedFrameIsSealed :
    (∃ c f, encodeCommand c = some f) ∧ (∃ p r f, r.shape ≠ .legacyCipher ∧ encodeResponse p r = some f) ∧
      (∃ p r f, r.shape = .legacyCipher ∧ encodeResponse p r = some f) ∧ ∃ d a f, cpuidFrame d a = f :=
  ⟨⟨⟨addrA, addrZ, .readAddress, []⟩, _, rfl⟩, ⟨Config.params, ⟨addrZ, addrA, true, .usual, []⟩, _, by decide, rfl⟩,
    ⟨Config.params, ⟨addrZ, addrA, true, .legacyCipher, []⟩, _, rfl, rfl⟩, addrZ, addrA, _, rfl⟩

theorem v21_frame : frameAt 15 v21 15 :=
  ⟨by decide, rfl, ⟨0x0F, rfl, rfl⟩, by decide, by decide, 0x2D, rfl, by decide +kernel⟩

theorem v29_frame : frameAt 14 v29 14 :=
  ⟨by decide, rfl, ⟨0x0E, rfl, rfl⟩, by decide, by decide, 0x29, rfl, by decide +kernel⟩

theorem no_empty_frame (min len : Nat) : ¬ frameAt min [] len := fun h => by simpa using h.2.1

theorem witness_DecodeCommand_frame : ∃ buf len, frameAt 15 buf len ∧ len = 15 := ⟨v21, 15, v21_frame, rfl⟩

theorem witness_DecodeCommand_none : ∃ buf, ∀ len, ¬ frameAt 15 buf len := ⟨[], no_empty_frame 15⟩

theorem witness_DecodeResponse_frame (pol : ErrFlagPolicy) :
    ∃ (p : Params) (buf : List Byte) (len : Nat), p.errFlagPolicy = pol ∧ frameAt 14 buf len ∧ len = 14 := ⟨par pol, v29, 14, rfl, v29_frame, rfl⟩

theorem witness_DecodeResponse_none : ∃ buf, ∀ len, ¬ frameAt 14 buf len := ⟨[], no_empty_frame 14⟩

theorem witness_DecodeReason_kinds : kindMin .cmd = 15 ∧ kindMin .rsp = 14 := by decide

theorem witness_FormatRows :
    (∃ buf len, frameAt 15 buf len ∧ buf[1]? = some 0x01 ∧ buf[3]? = some 0x00) ∧ ∃ buf len, frameAt 14 buf len :=
  ⟨⟨v21, 15, v21_frame, rfl, rfl⟩, v29, 14, v29_frame⟩

theorem witness_CommandRoundTrip : ∃ c : Command, c.payload.length ≤ 240 ∧ codeCanonical c.code = true :=
  ⟨⟨addrA, addrZ, .unknown 0x12 0x34, zeros 240⟩, by decide +kernel, by decide⟩

theorem witness_ResponseRoundTrip : ∃ r : Response, r.shape = .usual ∧ r.payload.length ≤ 241 :=
  ⟨⟨addrZ, addrA, true, .usual, zeros 241⟩, rfl, by decide +kernel⟩

theorem witness_SingleByteCorruption :
    (∃ buf k b, k + 1 < buf.length ∧ k ≠ 2 ∧ buf[k]? ≠ some b ∧ frameAt 15 buf buf.length) ∧
      ∃ buf k b, k + 1 < buf.length ∧ k ≠ 2 ∧ buf[k]? ≠ some b ∧ frameAt 14 buf buf.length :=
  ⟨⟨v21, 13, 0x03, by decide, by decide, by decide, v21_frame⟩, v29, 0, 0x03, by decide, by decide, by decide, v29_frame⟩

theorem witness_ExchangedAddresses :
    ∃ a b x y c, a.length = 4 ∧ decodeCommand (a ++ addrBytes x ++ addrBytes y ++ b) = some c :=
  ⟨[0x02, 0x01, 0x0F, 0x00], [0xFF, 0x04, 0x2D], addrA, addrZ, ⟨addrA, addrZ, .readAddress, []⟩, rfl, by decide +kernel⟩

theorem witness_Request_open : ∃ (s : State) (pay : List Byte), s.phase = .idle ∧ pay.length ≤ 240 ∧ s.connOpen = true :=
  ⟨ready 0 [], zeros 240, rfl, by decide +kernel, rfl⟩

theorem witness_Request_closed : ∃ (s : State) (pay : List Byte), s.phase = .idle ∧ pay.length ≤ 240 ∧ s.connOpen = false :=
  ⟨State.reset, zeros 240, rfl, by decide +kernel, rfl⟩

theorem witness_Request_stops :
    (∃ s : State, s.phase ≠ .idle) ∧ ∃ (s : State) (pay : List Byte), s.phase = .idle ∧ 240 < pay.length :=
  ⟨⟨st .done, by decide⟩, st .idle, zeros 241, rfl, by decide +kernel⟩

theorem witness_SettleDone :
    ∃ s : State, s.phase = .settle ∧ s.tmr = 20 ∧ s.reqLen.toNat ≤ 240 ∧ s.reqPay.length = 255 :=
  ⟨{ st .settle with tmr := 20, reqLen := 240 }, rfl, rfl, by decide, by decide +kernel⟩

theorem witness_SettleDone_too_long :
    ∃ s : State, s.phase = .settle ∧ s.tmr = 20 ∧ 240 < s.reqLen.toNat ∧ s.reqPay.length = 255 :=
  ⟨{ st .settle with tmr := 20, reqLen := 241 }, rfl, rfl, by decide, by decide +kernel⟩

theorem witness_SettleDone_early : ∃ s : State, ¬ (s.phase = .settle ∧ s.tmr = 20) :=
  ⟨{ st .settle with tmr := 19 }, by decide⟩

theorem witness_Write (ok : Bool) : ∃ s : State, s.phase = .write ∧ (nextDraw s).ok = ok ∧ s.txBuf.take s.txLen.toNat ≠ [] :=
  ⟨{ st .write with txBuf := v21, txLen := 15, draws := [⟨ok, 0⟩] }, rfl, rfl, (by decide : v21.take 15 ≠ [])⟩

theorem witness_Write_stops : ∃ s : State, s.phase ≠ .write := ⟨st .idle, by decide⟩

theorem witness_Poll_fails : ∃ s : State, s.phase = .poll ∧ s.pollTmr = 10 ∧ (nextDraw s).ok = false :=
  ⟨{ polling with draws := [⟨false, 0⟩] }, rfl, rfl, rfl⟩

theorem witness_Poll_enough :
    ∃ s : State, s.phase = .poll ∧ s.pollTmr = 10 ∧ (nextDraw s).ok = true ∧ s.expLen.toNat ≤ s.rxq.length :=
  ⟨{ polling with rxq := v30 }, rfl, rfl, rfl, by decide⟩

theorem witness_Poll_timeout :
    ∃ s : State, s.phase = .poll ∧ s.pollTmr = 10 ∧ (nextDraw s).ok = true ∧ s.rxq.length < s.expLen.toNat ∧
      200 < s.elapsed :=
  ⟨{ polling with elapsed := 201, rxq := v29 }, rfl, rfl, rfl, by decide, by decide⟩

theorem witness_Poll_waits :
    ∃ s : State, s.phase = .poll ∧ s.pollTmr = 10 ∧ (nextDraw s).ok = true ∧ s.rxq.length < s.expLen.toNat ∧
      s.elapsed ≤ 200 := ⟨{ polling with rxq := v29 }, rfl, rfl, rfl, by decide, by decide⟩

theorem witness_Poll_stops : ∃ s : State, ¬ (s.phase = .poll ∧ s.pollTmr = 10) :=
  ⟨{ polling with pollTmr := 9 }, by decide⟩

theorem witness_Read_fails : ∃ s : State, s.phase = .read ∧ (nextDraw s).ok = false := ⟨reading ⟨false, 0⟩ v30, rfl, rfl⟩

theorem witness_Read_short :
    ∃ (s : State) (m : Nat), s.phase = .read ∧ m = min (nextDraw s).count (min s.expLen.toNat s.rxq.length) ∧
      (nextDraw s).ok = true ∧ m < s.expLen.toNat := ⟨reading okDraw v29, 14, rfl, by decide, rfl, by decide⟩

theorem witness_Read_no_frame :
    ∃ (s : State) (m : Nat), s.phase = .read ∧ m = min (nextDraw s).count (min s.expLen.toNat s.rxq.length) ∧
      (nextDraw s).ok = true ∧ m = s.expLen.toNat ∧ decodeResponse Config.params (s.rxq.take m) = none :=
  ⟨reading okDraw (v30.set 14 0x2F), 15, rfl, by decide, rfl, by decide, by decide +kernel⟩

theorem witness_Read_frame :
    ∃ (s : State) (m : Nat) (r : Response), s.phase = .read ∧
      m = min (nextDraw s).count (min s.expLen.toNat s.rxq.length) ∧ (nextDraw s).ok = true ∧ m = s.expLen.toNat ∧
        decodeResponse Config.params (s.rxq.take m) = some r := by
  refine ⟨reading okDraw v30, 15, ⟨addrZ, addrA, errorFlag Config.params 0x00, .usual, [0x04]⟩, rfl, by decide, rfl,
    by decide, ?_⟩
  rfl

theorem witness_Read_stops : ∃ s : State, s.phase ≠ .read := ⟨st .idle, by decide⟩

theorem witness_Ack : (∃ s : State, s.phase = .done) ∧ ∃ s : State, s.phase ≠ .done :=
  ⟨⟨st .done, rfl⟩, st .idle, by decide⟩

theorem witness_Tick :
    (∃ s : State, s.phase = .idle) ∧ (∃ s : State, s.phase = .settle ∧ s.tmr ≠ 20) ∧
      (∃ s : State, s.phase = .poll ∧ s.pollTmr ≠ 10) ∧ ∃ s : State, s.phase = .settle ∧ s.tmr = 20 :=
  ⟨⟨st .idle, rfl⟩, ⟨{ st .settle with tmr := 19 }, rfl, by decide⟩, ⟨{ polling with pollTmr := 9 }, rfl, by decide⟩,
    { st .settle with tmr := 20 }, rfl, rfl⟩

theorem witness_ErrorsAreEntered : ∃ s t, exec .write s = .next t ∧ t.phase = .done ∧ t.resKind ≠ .ok :=
  ⟨{ st .write with draws := [⟨false, 0⟩] }, _, rfl, rfl, by decide⟩

theorem witness_LinkInUse : ∃ s : State, busy s = true := ⟨st .settle, rfl⟩

theorem witness_LinkFlush : ∃ s : State, busy s = false ∧ s.phase = .done := ⟨st .done, rfl, rfl⟩

theorem witness_LinkWrite (ok : Bool) :
    ∃ (s : State) (bytes : List Byte), busy s = false ∧ (nextDraw s).ok = ok ∧ bytes ≠ [] :=
  ⟨{ st .idle with draws := [⟨ok, 0⟩] }, [0x01], rfl, rfl, by decide⟩

theorem witness_LinkWrite_drawn :
    ∃ (s : State) (bytes : List Byte) (k : Nat) (ds : List Draw),
      busy s = false ∧ k < bytes.length ∧ s.draws = ⟨false, k⟩ :: ds :=
  ⟨{ st .idle with draws := [⟨false, 1⟩] }, [0x01, 0x02], 1, [], rfl, by decide, rfl⟩

theorem witness_LinkAvail (ok : Bool) : ∃ s : State, busy s = false ∧ (nextDraw s).ok = ok :=
  ⟨{ st .idle with draws := [⟨ok, 0⟩] }, rfl, rfl⟩

theorem witness_LinkRead :
    ∃ (s : State) (n m : Nat) (ds : List Draw),
      busy s = false ∧ m ≤ n ∧ m ≤ s.rxq.length ∧ s.draws = ⟨true, m⟩ :: ds :=
  ⟨{ st .idle with rxq := v30, draws := [⟨true, 15⟩] }, 15, 15, [], rfl, by decide, by decide, rfl⟩

theorem witness_EnvDrain : (∃ s : State, s.txq = []) ∧ ∃ (s : State) (b : Byte) (q : List Byte), s.txq = b :: q :=
  ⟨⟨st .idle, rfl⟩, { st .idle with txq := [0x02] }, 0x02, [], rfl⟩

theorem witness_Connect : (∃ s : State, s.phase = .idle) ∧ ∃ s : State, s.phase ≠ .idle :=
  ⟨⟨st .idle, rfl⟩, st .done, by decide⟩

theorem witness_Transactions :
    ∃ (i : Instr) (code : Code) (dst : Addr) (pay : List Byte) (s : State),
      transactionOf i = some (code, dst, pay) ∧ s.phase = .idle ∧ pay.length ≤ 240 ∧ s.connOpen = true :=
  ⟨.setOutput addrA (zeros 240), .setOutput, addrA, zeros 240, ready 0 [], rfl, rfl, by decide +kernel, rfl⟩

theorem witness_Transactions_stop :
    (∃ (i : Instr) (code : Code) (dst : Addr) (pay : List Byte), transactionOf i = some (code, dst, pay) ∧ ∃ s : State, s.phase ≠ .idle) ∧
      ∃ (i : Instr) (code : Code) (dst : Addr) (pay : List Byte) (s : State),
      transactionOf i = some (code, dst, pay) ∧ s.phase = .idle ∧ 240 < pay.length :=
  ⟨⟨.readAddress addrA [], .readAddress, addrA, [], rfl, st .done, by decide⟩,
    .execute .readInput addrA (zeros 241), .readInput, addrA, zeros 241, st .idle, rfl, rfl, by decide +kernel⟩

theorem witness_NoConnection :
    ∃ (i : Instr) (code : Code) (dst : Addr) (pay : List Byte) (s : State),
      transactionOf i = some (code, dst, pay) ∧ s.phase = .idle ∧ pay.length ≤ 240 ∧ s.connOpen = false :=
  ⟨.readInput addrA [], .readInput, addrA, [], State.reset, rfl, rfl, by decide, rfl⟩

theorem witness_TransactionsWriteTheirRegisters_ok :
    ∃ (i : Instr) (code : Code) (dst : Addr) (pay : List Byte) (s t : State) (r : Response), transactionOf i = some (code, dst, pay) ∧ s.connOpen = true ∧ exec i s = .next t ∧
      t.returned = .result (.ok r) := by
  obtain ⟨t, h, ht⟩ := nextHas_exists test_T11_setOutput
  simp only [Bool.and_eq_true, beq_iff_eq] at ht
  exact ⟨.setOutput addrA [0x02, 0x01], _, _, _, _, t, _, rfl, rfl, h, ht.1⟩

theorem witness_TransactionsWriteTheirRegisters_err :
    ∃ (i : Instr) (code : Code) (dst : Addr) (pay : List Byte) (s t : State) (e : ErrorKind), transactionOf i = some (code, dst, pay) ∧ s.connOpen = true ∧ exec i s = .next t ∧
      t.returned = .result (.err e) := by
  obtain ⟨t, h, ht⟩ := nextHas_exists test_T2_readInput_silent
  simp only [Bool.and_eq_true, beq_iff_eq] at ht
  exact ⟨.readInput addrA [], _, _, _, _, t, _, rfl, rfl, h, ht.1.1.1⟩

theorem witness_UnknownCodesNeverSucceed :
    ∃ i hi lo dst pay s t, transactionOf i = some (.unknown hi lo, dst, pay) ∧ s.connOpen = true ∧ exec i s = .next t := by
  obtain ⟨t, h, -⟩ := nextHas_exists test_T4_unknown
  exact ⟨.unknown 0x12 0x34 addrA [0xAA], 0x12, 0x34, addrA, [0xAA], _, t, rfl, rfl, h⟩

theorem witness_TransactionsEndWithinTheBound :
    ∃ (p : Params) (pay : List Byte) (s : State), 0 < p.tPoll ∧ s.phase = .idle ∧ pay.length ≤ 240 :=
  ⟨{ Config.params with tPoll := 1, tTimeout := 0, tSettle := 0 }, zeros 240, ready 0 [], by decide, rfl, by decide +kernel⟩

theorem witness_SilentLink :
    ∃ (p : Params) (code : Code) (pay : List Byte) (s : State), 0 < p.tPoll ∧ s.phase = .idle ∧ pay.length ≤ 240 ∧
      s.connOpen = true ∧ (∀ hi lo, code ≠ .unknown hi lo) ∧ pollBound p + 1 ≤ s.draws.length ∧
      (∀ d ∈ s.draws, d.ok = true) ∧ stepBound p ≤ s.turns.length ∧ ∀ u ∈ s.turns, u.deliver = [] :=
  ⟨Config.params, .readInput, [], ready 23 (List.replicate 255 quiet), by decide, rfl, by decide, rfl, by simp,
    by decide +kernel, by decide +kernel, by decide +kernel, by decide +kernel⟩

theorem witness_ReplyAfterTheFlush :
    ∃ (p : Params) (code : Code) (pay reply : List Byte) (r : Response) (s : State) (ts : List EnvTurn) (n : Nat)
      (ds : List Draw) (w a : Nat), 0 < p.tPoll ∧ s.phase = .idle ∧ pay.length ≤ 240 ∧ s.connOpen = true ∧
        (∀ hi lo, code ≠ .unknown hi lo) ∧ reply.length = expectedResponseLen code ∧ decodeResponse p reply = some r ∧
        s.turns = ⟨reply, n⟩ :: ts ∧ p.tSettle + 3 ≤ ts.length ∧ (∀ u ∈ ts, u.deliver = []) ∧
        s.draws = ⟨true, w⟩ :: ⟨true, a⟩ :: ⟨true, reply.length⟩ :: ds :=
  ⟨par .faithful, .readInput, [], v30, ⟨addrZ, addrA, false, .usual, [0x04]⟩,
    { ready 0 (⟨v30, 0⟩ :: List.replicate 23 quiet) with draws := [⟨true, 0⟩, ⟨true, 0⟩, ⟨true, 15⟩] },
    List.replicate 23 quiet, 0, [], 0, 0, by decide, rfl, by decide, rfl, by simp, by decide, by decide +kernel, rfl,
    by decide +kernel, by decide +kernel, rfl⟩

theorem witness_AcceptanceTest :
    (∃ s : State, s.phase = .idle ∧ s.connOpen = false) ∧ ∃ s : State, s.phase ≠ .idle :=
  ⟨⟨st .idle, rfl, rfl⟩, st .settle, by decide⟩

theorem witness_AcceptanceSuccess :
    ∃ p a s t, 0 < p.tPoll ∧ acceptanceTest p a s = .next t ∧ t.returned = .report .success := by
  obtain ⟨t, h, ht⟩ := nextHas_exists test_P2_acceptanceTest
  simp only [Bool.and_eq_true, beq_iff_eq] at ht
  exact ⟨par .alwaysFalse, addrA, _, t, by decide, h, ht.1.1.1⟩

theorem witness_StepRuns :
    (∃ (s : State) (i : Instr) (rest : List Byte), decode s.agenda = .ok (i, rest)) ∧
      ∃ (s : State) (e : DecodeReject), s.agenda ≠ [] ∧ decode s.agenda = .error e :=
  ⟨⟨{ st .idle with agenda := [0x47] }, .tick, [], rfl⟩, { st .idle with agenda := [0x00] }, .unassigned 0x00, by decide, rfl⟩

theorem witness_UnplannedSteps :
    (∃ s : State, s.agenda = [] ∧ s.phase = .settle ∧ s.tmr = 20) ∧ (∃ s : State, s.agenda = [] ∧ s.phase = .write) ∧
      (∃ s : State, s.agenda = [] ∧ s.phase = .poll ∧ s.pollTmr = 10) ∧ (∃ s : State, s.agenda = [] ∧ s.phase = .read) ∧
      ∃ s : State, s.agenda = [] ∧ engineDue Config.params s = false :=
  ⟨⟨{ st .settle with tmr := 20 }, rfl, rfl, rfl⟩, ⟨st .write, rfl, rfl⟩, ⟨polling, rfl, rfl, rfl⟩, ⟨st .read, rfl, rfl⟩,
    { st .settle with tmr := 19 }, rfl, by decide⟩

theorem witness_DecodeInvertsEncode : ∃ i : Instr, i.wf = true := ⟨.unknown 0xFF 0x02 addrA (zeros 240), by decide +kernel⟩

theorem witness_DecodedOperationsAreWellFormed : ∃ l i rest, decode l = .ok (i, rest) := ⟨[0x47], .tick, [], rfl⟩

theorem witness_ByteOrder :
    (∃ c : Code, codeCanonical c = true ∧ ∀ hi lo, c ≠ .unknown hi lo) ∧ ∃ x y : Addr, be32 x = be32 y :=
  ⟨⟨.readFirmwareVersion, rfl, by simp⟩, addrA, addrA, rfl⟩

end Sys2Proof.Tests
end

section
/-! The codec's operations as a whole (O8): each encoder answers next with its frame, so an operation that encodes no more
payload than a frame holds completes, and what it gives back is the same in every state. -/
namespace Sys2Proof.Machine

-- What the operations that can refuse an operand do with a frame.

theorem exec_encodeCommand_of_some {c : Command} {f : List Byte} (h : encodeCommand c = some f) (s : State) :
    exec (.encodeCommand c) s = .next (giveBack (.frame f) s) := by
  simp [exec, execEncodeCommand, giveFrame, h]

theorem exec_encodeUsual_of_some {r : Response} {f : List Byte} (h : encodeUsual r = some f) (s : State) :
    exec (.encodeUsual r) s = .next (giveBack (.frame (usualFrame r f)) s) := by
  simp [exec, execEncodeUsual, giveFrame, h]

theorem exec_encodeResponse_of_some {r : Response} {f : List Byte} (h : encodeResponse Config.params r = some f)
    (s : State) : exec (.encodeResponse r) s = .next (giveBack (.frame f) s) := by
  simp [exec, execEncodeResponse, giveFrame, h]

/-- Only the shape `Usual` bounds the payload `EncodeResponse` accepts (R87, R88). -/
theorem encodeResponse_some {p : Params} {r : Response} (h : r.shape = .usual → r.payload.length ≤ 241) :
    ∃ f, encodeResponse p r = some f := by
  unfold encodeResponse
  cases hs : r.shape with
  | usual =>
    obtain ⟨f, hf, -⟩ := encodeUsual_some (h hs)
    exact ⟨f, hf⟩
  | cpuID => exact ⟨_, rfl⟩
  | legacyCipher => exact ⟨_, rfl⟩

/-- An operation of the codec that encodes no more payload than a frame holds gives back one value, whatever the state is.
The three encoders that can refuse have a frame to give; every other operation has no refusal. -/
theorem exec_codec_encodable {i : Instr} (hc : codecOperation i = true) (he : encodable i = true) :
    ∃ v, ∀ s, exec i s = .next (giveBack v s) := by
  cases i <;> simp only [codecOperation, Bool.false_eq_true] at hc
  case encodeCommand c =>
    obtain ⟨f, hf, -⟩ := encodeCommand_some (c := c) (of_decide_eq_true he)
    exact ⟨_, exec_encodeCommand_of_some hf⟩
  case encodeUsual r =>
    obtain ⟨f, hf, -⟩ := encodeUsual_some (r := r) (of_decide_eq_true he)
    exact ⟨_, exec_encodeUsual_of_some hf⟩
  case encodeResponse r =>
    have hlen : r.shape = .usual → r.payload.length ≤ 241 := fun hs => by simpa [encodable, hs] using he
    obtain ⟨f, hf⟩ := encodeResponse_some hlen
    exact ⟨_, exec_encodeResponse_of_some hf⟩
  all_goals exact ⟨_, fun _ => rfl⟩

/-- A codec operation that answers next in one state answers next in every state, with the same value given back. -/
theorem exec_codec_next {i : Instr} {s t : State} (hc : codecOperation i = true) (e : exec i s = .next t) :
    t = giveBack t.returned s ∧ ∀ u, exec i u = .next (giveBack t.returned u) := by
  obtain ⟨v, hv⟩ | ⟨r, hr⟩ := exec_codec hc
  · obtain rfl : giveBack v s = t := by simpa [hv] using e
    exact ⟨rfl, hv⟩
  · simp [hr] at e

/-- Settles O8: a codec operation that answers next gives back one value in every state, and one whose payload fits its
frame answers next. -/
theorem codecOperationsArePure : Obligations.CodecOperationsArePure :=
  ⟨fun _ _ _ hc e => exec_codec_next hc e, fun _ hc he => exec_codec_encodable hc he⟩

end Sys2Proof.Machine
end

section
/-! One step of the machine, by what its plan holds: the operation the plan decodes to (O54), or with nothing planned the
engine's enabled step and else a millisecond (O55). -/
namespace Sys2Proof.Machine

@[simp] theorem decode_nil : decode [] = .error .empty := rfl

theorem step_of_agenda_nil {s : State} (h : s.agenda = []) : step s = advance Config.params s := by
  simp [step, fetch, h]

theorem step_of_decode {s : State} {i : Instr} {rest : List Byte} (h : decode s.agenda = .ok (i, rest)) :
    step s = exec i { s with agenda := rest } := by
  cases ha : s.agenda with
  | nil => simp [ha] at h
  | cons b l =>
    rw [ha] at h
    simp [step, fetch, ha, h]

theorem step_of_decode_error {s : State} {e : DecodeReject} (ha : s.agenda ≠ []) (h : decode s.agenda = .error e) :
    step s = .refused (.undecodable e) := by
  obtain ⟨b, l, hbl⟩ := List.exists_cons_of_ne_nil ha
  rw [hbl] at h
  simp [step, fetch, hbl, h]

/-- What a step that answers next ran: the machine's own next step, or the operation its plan decodes to. -/
theorem step_next {s t : State} (e : step s = .next t) :
    advance Config.params s = .next t ∨ ∃ i rest, exec i { s with agenda := rest } = .next t := by
  by_cases ha : s.agenda = []
  · exact .inl (step_of_agenda_nil ha ▸ e)
  · cases hd : decode s.agenda with
    | ok x => exact .inr ⟨x.1, x.2, step_of_decode (i := x.1) (rest := x.2) hd ▸ e⟩
    | error r => simp [step_of_decode_error ha hd] at e

-- The machine's own next step, where an engine step is enabled and where none is (R110).

theorem advance_settle {p : Params} {s : State} (hp : s.phase = .settle) (ht : s.tmr = p.tSettle) :
    advance p s = stepSettleDone p s := by
  simp [advance, engineDue, hp, ht]

theorem advance_write {p : Params} {s : State} (hp : s.phase = .write) : advance p s = stepWrite p s := by
  simp [advance, engineDue, hp]

theorem advance_poll {p : Params} {s : State} (hp : s.phase = .poll) (ht : s.pollTmr = p.tPoll) :
    advance p s = stepPoll p s := by
  simp [advance, engineDue, hp, ht]

theorem advance_read {p : Params} {s : State} (hp : s.phase = .read) : advance p s = stepRead p s := by
  simp [advance, engineDue, hp]

theorem advance_not_due {p : Params} {s : State} (hd : engineDue p s = false) : advance p s = stepTick p s := by
  simp [advance, hd]

theorem stepTick_not_due {p : Params} {s : State} (hd : engineDue p s = false) :
    stepTick p s = .next (passTime s) := by
  simp [stepTick, hd]

/-- Settles O54, by the two outcomes of the decoder; an empty plan is no operation. -/
theorem stepRunsTheDecodedOperation : Obligations.StepRunsTheDecodedOperation :=
  fun _ => ⟨fun _ _ h => step_of_decode h, fun _ ha h => step_of_decode_error ha h⟩

/-- Settles O55: with nothing planned the step is `advance`, which takes the step of the phase where it is enabled. -/
theorem unplannedStepsAreUrgent : Obligations.UnplannedStepsAreUrgent := by
  intro s ha
  rw [step_of_agenda_nil ha]
  exact ⟨advance_settle (p := Config.params), advance_write, advance_poll (p := Config.params), advance_read,
    fun hd => ⟨advance_not_due hd, passTime s, (advance_not_due hd).trans (stepTick_not_due hd), passTime_now s⟩⟩

end Sys2Proof.Machine
end

section
/-! The invariant of the registers holds at reset (O2) and is kept by every step (O3). -/
namespace Sys2Proof.Machine

/-- The invariant is kept by every part of a blocking operation. -/
theorem Inv.steady (p : Params) : Steady p (Inv p) where
  env s h := h.of_regs (regsOf_envTurn s)
  adv _ _ h e := h.advance e
  tick s t h e := by
    obtain ⟨hd, rfl⟩ := stepTick_next e
    exact h.passTime hd
  acc _ _ _ _ _ hl h := h.accept hl
  ack _ h := h.acknowledge
  give v s h := h.of_regs (regsOf_giveBack v s)

/-- Every operation keeps the invariant. -/
theorem Inv.exec {i : Instr} {s t : State} (h : Inv Config.params s) (e : exec i s = .next t) :
    Inv Config.params t := by
  cases hb : blocking i with
  | true => exact (Inv.steady Config.params).blocking hb s t h e
  | false =>
    obtain ⟨_, _, _, -, -, hl, rfl⟩ | ⟨-, e⟩ | ⟨-, e⟩ | ⟨-, e⟩ | ⟨-, e⟩ | ⟨-, -, rfl⟩ | ⟨-, hd, rfl⟩ | ⟨-, hp, rfl⟩ |
      ⟨-, hp, rfl⟩ | ⟨e, -, -⟩ := exec_cases hb e
    · exact h.accept hl
    · exact h.settleDone e
    · exact h.write e
    · exact h.poll e
    · exact h.read e
    · exact h.acknowledge
    · exact h.passTime hd
    · exact h.setConn hp true
    · exact h.setConn hp false
    · exact h.of_regs e

/-- Settles O3: a step is the machine's own next step, or an operation on a state that differs in its plan alone. -/
theorem everyStepKeepsTheInvariant : Obligations.EveryStepKeepsTheInvariant := by
  intro s t h e
  obtain e | ⟨i, rest, e⟩ := step_next e
  · exact h.advance e
  · have h' : Inv Config.params { s with agenda := rest } := h.of_regs rfl
    exact h'.exec e

@[simp] theorem byteAt_zeros (n i : Nat) : byteAt (zeros n) i = 0 := by
  simp [byteAt, zeros]

/-- Settles O2: at reset every timer is 0, both buffers are full of zeros, and the engine is idle without a result. -/
theorem resetMeetsTheInvariant : Obligations.ResetMeetsTheInvariant where
  reqPay_length := List.length_replicate
  reqLen_le := Nat.zero_le _
  reqPay_zero i _ := byteAt_zeros Config.payloadCap i
  expLen_eq := rfl
  txBuf_length := List.length_replicate
  rxBuf_length := List.length_replicate
  rxCnt_le := Nat.zero_le _
  tmr_le := Nat.zero_le _
  pollTmr_le := Nat.zero_le _
  elapsed_le := Nat.zero_le _
  polling h := nomatch h
  framed h := nomatch h
  busy_none _ := rfl
  done_some h := nomatch h
  count_zero _ := rfl
  count_le := Nat.zero_le _
  ok_rsp h := nomatch h
  connected h := nomatch h

end Sys2Proof.Machine
end

section
/-! What the engine's steps leave unchanged, the arrow of `PHASE` each takes, and the result each leaves, said once for the
four of them. -/
namespace Sys2Proof.Machine

/-- The registers a request is held in (R22, R27). -/
def requestRegs (s : State) : Code × Addr × BitVec 8 × List Byte × BitVec 8 :=
  (s.reqCode, s.reqDst, s.reqLen, s.reqPay, s.expLen)

theorem requestRegs_eq_iff {s t : State} : requestRegs t = requestRegs s ↔
    t.reqCode = s.reqCode ∧ t.reqDst = s.reqDst ∧ t.reqLen = s.reqLen ∧ t.reqPay = s.reqPay ∧ t.expLen = s.expLen := by
  simp [requestRegs]

@[simp] theorem requestRegs_acknowledge (s : State) : requestRegs (acknowledge s) = requestRegs s := rfl

theorem requestRegs_of_regsOf {s t : State} (e : regsOf t = regsOf s) : requestRegs t = requestRegs s :=
  (congrArg requestRegs e :)

-- What a read leaves of the state around it.
@[simp] theorem linkRead_connOpen (n : Nat) (s : State) : (linkRead n s).2.connOpen = s.connOpen :=
  (congrArg State.connOpen (regsOf_linkRead n s) :)
@[simp] theorem linkRead_rsp (n : Nat) (s : State) : (linkRead n s).2.rsp = s.rsp :=
  (congrArg State.rsp (regsOf_linkRead n s) :)
@[simp] theorem linkRead_requestRegs (n : Nat) (s : State) : requestRegs (linkRead n s).2 = requestRegs s :=
  requestRegs_of_regsOf (regsOf_linkRead n s)
@[simp] theorem linkRead_now (n : Nat) (s : State) : (linkRead n s).2.now = s.now := by
  unfold linkRead; split <;> rfl

/-- The engine's step `i` takes `s` to `t` (R102, R104, R105, R107). -/
inductive EngineStep (p : Params) : Instr → State → State → Prop
  | settleDone {s t : State} (e : stepSettleDone p s = .next t) : EngineStep p .settleDone s t
  | write {s t : State} (e : stepWrite p s = .next t) : EngineStep p .write s t
  | poll {s t : State} (e : stepPoll p s = .next t) : EngineStep p .poll s t
  | read {s t : State} (e : stepRead p s = .next t) : EngineStep p .read s t

/-- The machine's own next step is an engine step or a millisecond (R110). -/
theorem advance_next {p : Params} {s t : State} (e : advance p s = .next t) :
    (∃ i, EngineStep p i s t) ∨ t = passTime s := by
  obtain ⟨-, -, a⟩ | ⟨-, a⟩ | ⟨-, -, a⟩ | ⟨-, a⟩ | ⟨-, a⟩ := advance_cases p s
  · exact .inl ⟨_, .settleDone (a ▸ e)⟩
  · exact .inl ⟨_, .write (a ▸ e)⟩
  · exact .inl ⟨_, .poll (a ▸ e)⟩
  · exact .inl ⟨_, .read (a ▸ e)⟩
  · exact .inr (by simpa [a, eq_comm] using e)

/-- What an operation that is not a blocking one can do, the engine's steps taken together. -/
theorem exec_next_cases {i : Instr} {s t : State} (hb : blocking i = false) (e : exec i s = .next t) :
    (∃ c d q, i = .request c d q ∧ s.phase = .idle ∧ t = accept c d q s) ∨
    EngineStep Config.params i s t ∨
    (i = .ack ∧ s.phase = .done ∧ t = acknowledge s) ∨
    (i = .tick ∧ t = passTime s) ∨
    (i = .connect ∧ s.phase = .idle ∧ t = { s with connOpen := true }) ∨
    (i = .disconnect ∧ s.phase = .idle ∧ t = { s with connOpen := false }) ∨
    (regsOf t = regsOf s ∧ t.now = s.now) := by
  obtain ⟨c, d, q, h, hp, -, ht⟩ | ⟨rfl, e⟩ | ⟨rfl, e⟩ | ⟨rfl, e⟩ | ⟨rfl, e⟩ | h | ⟨h, -, ht⟩ | h | h | ⟨hr, hn, -⟩ :=
    exec_cases hb e
  · exact .inl ⟨c, d, q, h, hp, ht⟩
  · exact .inr (.inl (.settleDone e))
  · exact .inr (.inl (.write e))
  · exact .inr (.inl (.poll e))
  · exact .inr (.inl (.read e))
  · exact .inr (.inr (.inl h))
  · exact .inr (.inr (.inr (.inl ⟨h, ht⟩)))
  · exact .inr (.inr (.inr (.inr (.inl h))))
  · exact .inr (.inr (.inr (.inr (.inr (.inl h)))))
  · exact .inr (.inr (.inr (.inr (.inr (.inr ⟨hr, hn⟩)))))

/-- What the engine's steps do not write: the request registers, the connection and the time (R20, R31). -/
theorem EngineStep.frame {p : Params} {i : Instr} {s t : State} (h : EngineStep p i s t) :
    requestRegs t = requestRegs s ∧ t.connOpen = s.connOpen ∧ t.now = s.now := by
  cases h with
  | settleDone e =>
    obtain ⟨-, -, f, -, rfl⟩ := stepSettleDone_next e
    exact ⟨rfl, rfl, rfl⟩
  | write e => obtain ⟨-, ⟨-, rfl⟩ | ⟨-, rfl⟩⟩ := stepWrite_next e <;> exact ⟨rfl, rfl, rfl⟩
  | poll e =>
    obtain ⟨-, -, rfl⟩ := stepPoll_next e
    obtain ⟨-, a⟩ | ⟨_, -, -, a⟩ | ⟨_, -, -, -, a⟩ | ⟨_, -, -, -, a⟩ :=
      afterAvail_cases p (linkAvail s).1 (linkAvail s).2 <;> rw [a] <;> exact ⟨rfl, rfl, rfl⟩
  | read e =>
    obtain ⟨-, rfl⟩ := stepRead_next e
    have hr := linkRead_requestRegs s.expLen.toNat s
    have hc := linkRead_connOpen s.expLen.toNat s
    have hn := linkRead_now s.expLen.toNat s
    obtain ⟨-, a⟩ | ⟨_, -, -, a⟩ | ⟨_, -, -, -, a⟩ | ⟨_, _, -, -, -, a⟩ :=
      afterRead_cases p (linkRead s.expLen.toNat s).1 (linkRead s.expLen.toNat s).2 <;> rw [a] <;> exact ⟨hr, hc, hn⟩

theorem EngineStep.requestRegs_eq {p : Params} {i : Instr} {s t : State} (h : EngineStep p i s t) :
    requestRegs t = requestRegs s := h.frame.1

theorem EngineStep.connOpen_eq {p : Params} {i : Instr} {s t : State} (h : EngineStep p i s t) :
    t.connOpen = s.connOpen := h.frame.2.1

theorem EngineStep.now_eq {p : Params} {i : Instr} {s t : State} (h : EngineStep p i s t) : t.now = s.now :=
  h.frame.2.2

/-- An engine step moves `PHASE` along an arrow of R111. -/
theorem EngineStep.arrow {p : Params} {i : Instr} {s t : State} (h : EngineStep p i s t) :
    (s.phase, t.phase) ∈ phaseArrows := by
  cases h with
  | settleDone e =>
    obtain ⟨hp, -, f, -, rfl⟩ := stepSettleDone_next e
    simp [phaseArrows, hp]
  | write e => obtain ⟨hp, ⟨-, rfl⟩ | ⟨-, rfl⟩⟩ := stepWrite_next e <;> simp [phaseArrows, hp]
  | poll e =>
    obtain ⟨hp, -, rfl⟩ := stepPoll_next e
    obtain ⟨-, a⟩ | ⟨_, -, -, a⟩ | ⟨_, -, -, -, a⟩ | ⟨_, -, -, -, a⟩ :=
      afterAvail_cases p (linkAvail s).1 (linkAvail s).2 <;> rw [a] <;> simp [phaseArrows, hp, linkAvail]
  | read e =>
    obtain ⟨hp, rfl⟩ := stepRead_next e
    obtain ⟨-, a⟩ | ⟨_, -, -, a⟩ | ⟨_, -, -, -, a⟩ | ⟨_, _, -, -, -, a⟩ :=
      afterRead_cases p (linkRead s.expLen.toNat s).1 (linkRead s.expLen.toNat s).2 <;> rw [a] <;> simp [phaseArrows, hp]

/-- No engine step is enabled in `DONE`. -/
theorem EngineStep.not_done {p : Params} {i : Instr} {s t : State} (h : EngineStep p i s t) : s.phase ≠ .done := by
  cases h with
  | settleDone e => simp [(stepSettleDone_next e).1]
  | write e => simp [(stepWrite_next e).1]
  | poll e => simp [(stepPoll_next e).1]
  | read e => simp [(stepRead_next e).1]

/-- The operations that are engine steps. -/
theorem EngineStep.instr {p : Params} {i : Instr} {s t : State} (h : EngineStep p i s t) :
    i = .settleDone ∨ i = .write ∨ i = .poll ∨ i = .read := by
  cases h <;> simp

/-- What an engine step does to the result registers: it leaves them while the transaction goes on, or ends it in an error,
which leaves `RSP`, or, being a read, ends it in a response. -/
theorem EngineStep.result_cases {p : Params} {i : Instr} {s t : State} (h : EngineStep p i s t) :
    (t.phase ≠ .done ∧ t.resKind = s.resKind ∧ t.resCount = s.resCount ∧ t.rsp = s.rsp) ∨
    (t.phase = .done ∧ (t.resKind = .ioError ∨ t.resKind = .timeout ∨ t.resKind = .frameError) ∧
      (t.resKind ≠ .frameError → t.resCount = 0) ∧ t.rsp = s.rsp) ∨
    (i = .read ∧ t.phase = .done ∧ t.resKind = .ok ∧ t.resCount = 0) := by
  cases h with
  | settleDone e =>
    obtain ⟨-, -, f, -, rfl⟩ := stepSettleDone_next e
    exact .inl ⟨by simp, rfl, rfl, rfl⟩
  | write e =>
    obtain ⟨-, ⟨-, rfl⟩ | ⟨-, rfl⟩⟩ := stepWrite_next e
    · exact .inl ⟨by simp, rfl, rfl, rfl⟩
    · exact .inr (.inl ⟨rfl, by simp, fun _ => rfl, rfl⟩)
  | poll e =>
    obtain ⟨hp, -, rfl⟩ := stepPoll_next e
    obtain ⟨-, a⟩ | ⟨_, -, -, a⟩ | ⟨_, -, -, -, a⟩ | ⟨_, -, -, -, a⟩ :=
      afterAvail_cases p (linkAvail s).1 (linkAvail s).2 <;> rw [a]
    · exact .inr (.inl ⟨rfl, by simp, fun _ => rfl, rfl⟩)
    · exact .inl ⟨by simp, rfl, rfl, rfl⟩
    · exact .inr (.inl ⟨rfl, by simp, fun _ => rfl, rfl⟩)
    · exact .inl ⟨by simp [linkAvail, hp], rfl, rfl, rfl⟩
  | read e =>
    obtain ⟨-, rfl⟩ := stepRead_next e
    have hr := linkRead_rsp s.expLen.toNat s
    obtain ⟨-, a⟩ | ⟨_, -, -, a⟩ | ⟨_, -, -, -, a⟩ | ⟨_, _, -, -, -, a⟩ :=
      afterRead_cases p (linkRead s.expLen.toNat s).1 (linkRead s.expLen.toNat s).2 <;> rw [a]
    · exact .inr (.inl ⟨rfl, by simp, fun _ => rfl, hr⟩)
    · exact .inr (.inl ⟨rfl, by simp, by simp, hr⟩)
    · exact .inr (.inl ⟨rfl, by simp, by simp, hr⟩)
    · exact .inr (.inr ⟨rfl, rfl, rfl, rfl⟩)

-- Accepting a request (R100).

theorem accept_phase (code : Code) (dst : Addr) (pay : List Byte) (s : State) :
    (accept code dst pay s).phase = if s.connOpen then .settle else .done := by
  unfold accept; split <;> rfl

@[simp] theorem accept_connOpen (code : Code) (dst : Addr) (pay : List Byte) (s : State) :
    (accept code dst pay s).connOpen = s.connOpen := by
  unfold accept; split <;> rfl

@[simp] theorem accept_now (code : Code) (dst : Addr) (pay : List Byte) (s : State) :
    (accept code dst pay s).now = s.now := by
  unfold accept; split <;> rfl

@[simp] theorem accept_rsp (code : Code) (dst : Addr) (pay : List Byte) (s : State) :
    (accept code dst pay s).rsp = s.rsp := by
  unfold accept; split <;> rfl

theorem accept_arrow (code : Code) (dst : Addr) (pay : List Byte) {s : State} (h : s.phase = .idle) :
    (s.phase, (accept code dst pay s).phase) ∈ phaseArrows := by
  cases hc : s.connOpen <;> simp [accept_phase, phaseArrows, h, hc]

end Sys2Proof.Machine
end

section
/-! The phase (O4): a blocking operation starts in `IDLE`, where alone a transaction can begin, and ends there. -/
namespace Sys2Proof.Machine

/-- A meaning, run from `IDLE`, ends in `IDLE`. -/
abbrev KeepsIdle (f : State → Out) : Prop := Keeps (fun s => s.phase = .idle) f

theorem keepsIdle_reportBack (r : Report) : KeepsIdle (reportBack r) := by
  rintro s t h ⟨⟩
  exact h

theorem keepsIdle_hostWait (p : Params) (n : Nat) : KeepsIdle (hostWait p n) := by
  induction n with
  | zero =>
    rintro s t h ⟨⟩
    exact h
  | succ n ih =>
    intro s t h e
    obtain ⟨u, hu, e⟩ := andThen_eq_next.mp e
    obtain ⟨-, rfl⟩ := stepTick_next hu
    exact ih _ t (by simpa using h) e

section
variable {p : Params} {a : Addr} {k : State → Out}

theorem keepsIdle_tryCall {code : Code} {pay : List Byte} {k : Response → State → Out} (hk : ∀ r, KeepsIdle (k r)) :
    KeepsIdle (tryCall p code a pay k) := by
  intro s t _ e
  obtain ⟨⟨x, u⟩, hx, e⟩ := andThen_eq_next.mp e
  have hu : u.phase = .idle := call_idle hx
  cases x with
  | ok r => exact hk r u t hu e
  | err err => exact keepsIdle_reportBack _ u t hu e

theorem keepsIdle_trySetOutput {i : Fin 4} {on : Bool} (hk : KeepsIdle k) : KeepsIdle (trySetOutput p a i on k) :=
  keepsIdle_tryCall fun _ => hk

theorem keepsIdle_checkInput {st : StepId} {expected : Byte} (hk : KeepsIdle k) :
    KeepsIdle (checkInput p a st expected k) := by
  refine keepsIdle_tryCall fun r s t h e => ?_
  split at e
  · exact hk s t h e
  · exact keepsIdle_reportBack _ s t h e

theorem keepsIdle_zeroOutputs {is : List (Fin 4)} (hk : KeepsIdle k) : KeepsIdle (zeroOutputs p a is k) := by
  induction is with
  | nil => exact hk
  | cons i is ih => exact keepsIdle_trySetOutput ih

theorem keepsIdle_toggleChannels {is : List (Fin 4)} (hk : KeepsIdle k) : KeepsIdle (toggleChannels p a is k) := by
  induction is with
  | nil => exact hk
  | cons i is ih =>
    have wait := keepsIdle_hostWait p p.tRelay
    exact keepsIdle_trySetOutput (wait.andThen (keepsIdle_checkInput (keepsIdle_trySetOutput (wait.andThen ih))))

theorem keepsIdle_acceptanceTest : KeepsIdle (acceptanceTest p a) :=
  keepsIdle_tryCall fun _ =>
    keepsIdle_zeroOutputs (keepsIdle_checkInput (keepsIdle_toggleChannels (keepsIdle_reportBack _)))

end

/-- The acceptance test begins with a transaction, so where that can begin. -/
theorem acceptanceTest_next {p : Params} {a : Addr} {s t : State} (e : acceptanceTest p a s = .next t) :
    s.phase = .idle := by
  obtain ⟨x, hx, -⟩ := andThen_eq_next.mp e
  exact (call_next hx).1

/-- What `Execute` answers: the result of a transaction, given back. -/
theorem execute_next {p : Params} {code : Code} {dst : Addr} {pay : List Byte} {s t : State}
    (e : execute p code dst pay s = .next t) :
    ∃ x, call p code dst pay s = .next x ∧ t = giveBack (.result x.1) x.2 := by
  obtain ⟨x, hx, e⟩ := andThen_eq_next.mp e
  exact ⟨x, hx, by simpa using e.symm⟩

theorem execute_idle {p : Params} {code : Code} {dst : Addr} {pay : List Byte} {s t : State}
    (e : execute p code dst pay s = .next t) : s.phase = .idle ∧ t.phase = .idle := by
  obtain ⟨x, hx, rfl⟩ := execute_next e
  exact ⟨(call_next hx).1, call_idle hx⟩

/-- A blocking operation starts and ends in `IDLE`. -/
theorem exec_blocking_idle {i : Instr} {s t : State} (hb : blocking i = true) (e : exec i s = .next t) :
    s.phase = .idle ∧ t.phase = .idle := by
  cases i <;> simp only [blocking, Bool.false_eq_true] at hb
  case acceptanceTest a => exact ⟨acceptanceTest_next e, keepsIdle_acceptanceTest s t (acceptanceTest_next e) e⟩
  all_goals exact execute_idle e

/-- Settles O4: what moves `PHASE` is a request, an engine step or `Ack`, each along an arrow; time, the connection and
the link leave it. -/
theorem phaseMovesOnlyAlongTheArrows : Obligations.PhaseMovesOnlyAlongTheArrows := by
  refine fun i s t e => ⟨fun hb => exec_blocking_idle hb e, fun hb hne => ?_⟩
  obtain ⟨c, d, q, rfl, hp, rfl⟩ | h | ⟨rfl, hp, rfl⟩ | ⟨-, rfl⟩ | ⟨-, -, rfl⟩ | ⟨-, -, rfl⟩ | ⟨hr, -⟩ :=
    exec_next_cases hb e
  · exact ⟨accept_arrow c d q hp, by simp⟩
  · refine ⟨h.arrow, ?_⟩
    obtain rfl | rfl | rfl | rfl := h.instr <;> simp
  · exact ⟨by simp [phaseArrows, hp], by simp⟩
  · exact absurd rfl hne
  · exact absurd rfl hne
  · exact absurd rfl hne
  · exact absurd (congrArg State.phase hr :) hne

end Sys2Proof.Machine
end

section
/-! Who writes the connection (O5), the records (O6) and the time (O7). -/
namespace Sys2Proof.Machine

/-- No part of a blocking operation writes the connection. -/
theorem steady_connOpen (p : Params) (b : Bool) : Steady p (fun s => s.connOpen = b) where
  env _ h := h
  adv s t h e := by
    obtain ⟨i, a⟩ | rfl := advance_next e
    · exact a.connOpen_eq.trans h
    · exact h
  tick s t h e := by
    obtain ⟨-, rfl⟩ := stepTick_next e
    exact h
  acc code dst pay s _ _ h := (accept_connOpen code dst pay s).trans h
  ack _ h := h
  give _ _ h := h

/-- No part of a blocking operation takes the time back. -/
theorem steady_now_le (p : Params) (n : Nat) : Steady p (fun s => n ≤ s.now) where
  env _ h := h
  adv s t h e := by
    obtain ⟨i, a⟩ | rfl := advance_next e
    · exact h.trans a.now_eq.ge
    · exact h.trans (Nat.le_succ _)
  tick s t h e := by
    obtain ⟨-, rfl⟩ := stepTick_next e
    exact h.trans (Nat.le_succ _)
  acc code dst pay s _ _ h := h.trans (accept_now code dst pay s).ge
  ack _ h := h
  give _ _ h := h

/-- Settles O5: a blocking operation keeps the connection at each of its parts, and of the others the two host steps alone
write it. -/
theorem onlyConnectAndDisconnectMoveTheConnection : Obligations.OnlyConnectAndDisconnectMoveTheConnection := by
  intro i s t e
  cases hb : blocking i with
  | true => exact .inl ((steady_connOpen _ s.connOpen).blocking hb s t rfl e)
  | false =>
    obtain ⟨c, d, q, -, -, rfl⟩ | h | ⟨-, -, rfl⟩ | ⟨-, rfl⟩ | ⟨rfl, hp, rfl⟩ | ⟨rfl, hp, rfl⟩ | ⟨hr, -⟩ :=
      exec_next_cases hb e
    · exact .inl (accept_connOpen c d q s)
    · exact .inl h.connOpen_eq
    · exact .inl rfl
    · exact .inl rfl
    · exact .inr ⟨hp, .inl ⟨rfl, rfl⟩⟩
    · exact .inr ⟨hp, .inr ⟨rfl, rfl⟩⟩
    · exact .inl (congrArg State.connOpen hr :)

/-- Only a request writes the request registers. -/
theorem exec_requestRegs {i : Instr} {s t : State} (hb : blocking i = false) (e : exec i s = .next t)
    (hi : ∀ c d q, i ≠ .request c d q) : requestRegs t = requestRegs s := by
  obtain ⟨c, d, q, rfl, -, -⟩ | h | ⟨-, -, rfl⟩ | ⟨-, rfl⟩ | ⟨-, -, rfl⟩ | ⟨-, -, rfl⟩ | ⟨hr, -⟩ := exec_next_cases hb e
  · exact absurd rfl (hi c d q)
  · exact h.requestRegs_eq
  · rfl
  · rfl
  · rfl
  · rfl
  · exact requestRegs_of_regsOf hr

/-- Only a read that ends its transaction in a response writes `RSP`. -/
theorem exec_rsp {i : Instr} {s t : State} (hb : blocking i = false) (e : exec i s = .next t) :
    t.rsp = s.rsp ∨ (i = .read ∧ t.resKind = .ok) := by
  obtain ⟨c, d, q, -, -, rfl⟩ | h | ⟨-, -, rfl⟩ | ⟨-, rfl⟩ | ⟨-, -, rfl⟩ | ⟨-, -, rfl⟩ | ⟨hr, -⟩ := exec_next_cases hb e
  · exact .inl (accept_rsp c d q s)
  · obtain ⟨-, -, -, hr⟩ | ⟨-, -, -, hr⟩ | ⟨hi, -, hk, -⟩ := h.result_cases
    · exact .inl hr
    · exact .inl hr
    · exact .inr ⟨hi, hk⟩
  · exact .inl rfl
  · exact .inl rfl
  · exact .inl rfl
  · exact .inl rfl
  · exact .inl (congrArg State.rsp hr :)

/-- Settles O6, from who writes the request registers and who writes `RSP`. -/
theorem recordsAreWrittenOnlyAtAcceptanceAndCompletion :
    Obligations.RecordsAreWrittenOnlyAtAcceptanceAndCompletion :=
  fun _ _ _ hb e => ⟨fun hi => requestRegs_eq_iff.mp (exec_requestRegs hb e hi), (exec_rsp hb e).resolve_left⟩

/-- An operation that is not a blocking one leaves the time, unless it is `Tick`, which adds a millisecond. -/
theorem exec_now {i : Instr} {s t : State} (hb : blocking i = false) (e : exec i s = .next t) :
    t.now = s.now ∨ (i = .tick ∧ t.now = s.now + 1) := by
  obtain ⟨c, d, q, -, -, rfl⟩ | h | ⟨-, -, rfl⟩ | ⟨hi, rfl⟩ | ⟨-, -, rfl⟩ | ⟨-, -, rfl⟩ | ⟨-, hn⟩ := exec_next_cases hb e
  · exact .inl (accept_now c d q s)
  · exact .inl h.now_eq
  · exact .inl rfl
  · exact .inr ⟨hi, rfl⟩
  · exact .inl rfl
  · exact .inl rfl
  · exact .inl hn

/-- Settles O7: no part of a blocking operation takes the time back, and of the others `Tick` alone moves it. -/
theorem onlyTimeMovesNow : Obligations.OnlyTimeMovesNow := by
  intro i s t e
  cases hb : blocking i with
  | true => exact ⟨(steady_now_le _ s.now).blocking hb s t le_rfl e, by simp⟩
  | false =>
    obtain h | ⟨rfl, h⟩ := exec_now hb e
    · exact ⟨h.ge, fun _ _ => h⟩
    · exact ⟨by omega, by simp⟩

end Sys2Proof.Machine
end

section
/-! What a whole transaction leaves in the request, response and result registers (O47). -/
namespace Sys2Proof.Machine

/-- A transaction is the acceptance of its operands, a run to `DONE`, and the acknowledgement of the result found there. -/
theorem call_run {p : Params} {code : Code} {dst : Addr} {pay : List Byte} {s : State} {x : TxResult × State}
    (e : call p code dst pay s = .next x) :
    ∃ d, engineRun p (stepBound p) (accept code dst pay s) = .next d ∧ txResult d = some x.1 ∧ x.2 = acknowledge d := by
  obtain ⟨hp, hl⟩ := call_next e
  obtain ⟨d, hd, hf⟩ := andThen_eq_next.mp e
  obtain ⟨-, hr, hx⟩ := finish_next hf
  exact ⟨d, by simpa [stepRequest, hp, Config.cmdDataMax, Nat.not_lt.mpr hl] using hd, hr, hx⟩

/-- The request registers once operands are accepted on an open connection (R100). -/
theorem accept_requestRegs {code : Code} {dst : Addr} {pay : List Byte} {s : State} (hc : s.connOpen = true) :
    requestRegs (accept code dst pay s) = (code, dst, BitVec.ofNat 8 pay.length, payloadBuffer pay,
      BitVec.ofNat 8 (expectedResponseLen code)) := by
  simp [accept, hc, requestRegs]

/-- A run leaves the request registers. -/
theorem engineRun_requestRegs {p : Params} {n : Nat} {s t : State} (e : engineRun p n s = .next t) :
    requestRegs t = requestRegs s := by
  refine engineRun_induction (P := fun u => requestRegs u = requestRegs s) (fun _ h => h) (fun u v h a => ?_) rfl e
  obtain ⟨i, a⟩ | rfl := advance_next a
  · exact a.requestRegs_eq.trans h
  · exact h

/-- What a run that found the response `r` in `RSP` keeps: only a frame error has a count, `RSP` is still `r` unless the
result is a response, and there is no such result before `DONE`. -/
structure RunResult (r : Response) (s : State) : Prop where
  count_zero : s.resKind ≠ .frameError → s.resCount = 0
  rsp_kept : s.resKind ≠ .ok → s.rsp = r
  ok_done : s.resKind = .ok → s.phase = .done

theorem RunResult.accept (code : Code) (dst : Addr) (pay : List Byte) (s : State) :
    RunResult s.rsp (accept code dst pay s) := by
  unfold Machine.accept
  split <;> constructor <;> simp

theorem RunResult.engineStep {p : Params} {i : Instr} {r : Response} {s t : State} (h : RunResult r s)
    (a : EngineStep p i s t) : RunResult r t := by
  have hs : s.resKind ≠ .ok := fun hk => a.not_done (h.ok_done hk)
  obtain ⟨-, hk, hn, hr⟩ | ⟨hd, -, hn, hr⟩ | ⟨-, hd, hk, hn⟩ := a.result_cases
  · exact ⟨by simpa [hk, hn] using h.count_zero, fun _ => hr.trans (h.rsp_kept hs), fun hk' => absurd (hk ▸ hk') hs⟩
  · exact ⟨hn, fun _ => hr.trans (h.rsp_kept hs), fun _ => hd⟩
  · exact ⟨fun _ => hn, fun hk' => absurd hk hk', fun _ => hd⟩

theorem RunResult.engineRun {p : Params} {n : Nat} {r : Response} {s t : State} (h : RunResult r s)
    (e : engineRun p n s = .next t) : RunResult r t := by
  refine engineRun_induction (P := RunResult r) (fun u h => ⟨h.1, h.2, h.3⟩) (fun u v h a => ?_) h e
  obtain ⟨i, a⟩ | rfl := advance_next a
  · exact h.engineStep a
  · exact ⟨h.1, h.2, h.3⟩

theorem txResult_ok {s : State} {r : Response} (h : txResult s = some (.ok r)) : s.resKind = .ok ∧ s.rsp = r := by
  cases hk : s.resKind <;> simp [txResult, hk] at h
  exact ⟨rfl, h⟩

theorem txResult_err {s : State} {e : ErrorKind} (h : txResult s = some (.err e)) : s.resKind ≠ .ok := by
  intro hk
  simp [txResult, hk] at h

/-- A transaction on an open connection leaves its operands in the request registers. -/
theorem call_requestRegs {p : Params} {code : Code} {dst : Addr} {pay : List Byte} {s : State} {x : TxResult × State}
    (hc : s.connOpen = true) (e : call p code dst pay s = .next x) :
    requestRegs x.2 = (code, dst, BitVec.ofNat 8 pay.length, payloadBuffer pay,
      BitVec.ofNat 8 (expectedResponseLen code)) := by
  obtain ⟨d, hd, -, hx⟩ := call_run e
  rw [hx, requestRegs_acknowledge, engineRun_requestRegs hd, accept_requestRegs hc]

/-- A successful transaction leaves its response, with `RES_KIND` OK and no count. -/
theorem call_ok {p : Params} {code : Code} {dst : Addr} {pay : List Byte} {s : State} {x : TxResult × State}
    {r : Response} (e : call p code dst pay s = .next x) (hr : x.1 = .ok r) :
    x.2.rsp = r ∧ x.2.resKind = .ok ∧ x.2.resCount = 0 := by
  obtain ⟨d, hd, ht, hx⟩ := call_run e
  obtain ⟨hk, hrsp⟩ := txResult_ok (hr ▸ ht)
  have hrun := (RunResult.accept code dst pay s).engineRun hd
  rw [hx]
  exact ⟨hrsp, hk, hrun.count_zero (by simp [hk])⟩

/-- A failed transaction leaves `RSP`. -/
theorem call_err {p : Params} {code : Code} {dst : Addr} {pay : List Byte} {s : State} {x : TxResult × State}
    {k : ErrorKind} (e : call p code dst pay s = .next x) (hr : x.1 = .err k) : x.2.rsp = s.rsp := by
  obtain ⟨d, hd, ht, hx⟩ := call_run e
  rw [hx]
  exact ((RunResult.accept code dst pay s).engineRun hd).rsp_kept (txResult_err (hr ▸ ht))

/-- Settles O47: the run keeps the request registers as acceptance wrote them, and writes `RSP` only with a response. -/
theorem transactionsWriteTheirRegisters : Obligations.TransactionsWriteTheirRegisters := by
  intro i code dst pay s t hi hc e
  rw [exec_transaction hi] at e
  obtain ⟨x, hx, rfl⟩ := execute_next e
  have hl : pay.length < 256 := by have := (call_next hx).2; omega
  have hexp : expectedResponseLen code < 256 := by have := expectedResponseLen_le code; omega
  have hreq := call_requestRegs hc hx
  simp only [requestRegs, Prod.mk.injEq] at hreq
  obtain ⟨hcode, hdst, hlen, hpay, hel⟩ := hreq
  refine ⟨hcode, hdst, ?_, hpay, ?_, fun r hr => call_ok hx (by simpa using hr),
    fun k hk => call_err hx (by simpa using hk)⟩
  · simp [hlen, Nat.mod_eq_of_lt hl]
  · simp [hel, Nat.mod_eq_of_lt hexp]

end Sys2Proof.Machine
end

section
/-! The values at reset (O1), the connection's two operations (O43), and the codes and flags (O59). -/
namespace Sys2Proof.Machine

/-- Settles O1: the fields of `State.reset`, read off. -/
theorem resetHoldsTheStatedValues : Obligations.ResetHoldsTheStatedValues :=
  ⟨rfl, rfl, rfl, rfl, rfl, rfl, rfl, rfl, rfl⟩

theorem exec_connect_idle {s : State} (h : s.phase = .idle) : exec .connect s = .next { s with connOpen := true } :=
  if_pos h

theorem exec_connect_not_idle {s : State} (h : s.phase ≠ .idle) : exec .connect s = .refused .connectOutsideIdle :=
  if_neg h

theorem exec_disconnect_idle {s : State} (h : s.phase = .idle) :
    exec .disconnect s = .next { s with connOpen := false } := if_pos h

theorem exec_disconnect_not_idle {s : State} (h : s.phase ≠ .idle) :
    exec .disconnect s = .refused .disconnectOutsideIdle := if_neg h

/-- Settles O43, by the two branches of each operation. -/
theorem connectAndDisconnectInIdleOnly : Obligations.ConnectAndDisconnectInIdleOnly :=
  fun _ => ⟨fun h => ⟨exec_connect_idle h, exec_disconnect_idle h⟩,
    fun h => ⟨exec_connect_not_idle h, exec_disconnect_not_idle h⟩⟩

theorem busy_iff {s : State} : busy s = true ↔ s.phase ≠ .idle ∧ s.phase ≠ .done := by simp [busy]

theorem resultReady_iff {s : State} : resultReady s = true ↔ s.phase = .done := by simp [resultReady]

/-- Settles O59: the codes are read off the two tables, the flags are their definitions. -/
theorem statusCodesAndFlags : Obligations.StatusCodesAndFlags :=
  ⟨⟨rfl, rfl, rfl, rfl, rfl, rfl⟩, ⟨rfl, rfl, rfl, rfl, rfl, rfl⟩, fun _ => ⟨busy_iff, resultReady_iff⟩⟩

end Sys2Proof.Machine
end

section
/-! The rows of the link (O38 to O41) and of its environment (O42): where a link primitive runs, what each leaves in the
two queues, and which answers of the environment it takes. -/
namespace Sys2Proof.Machine

-- The answer a primitive takes when State lists one (R40 to R42).

theorem nextDraw_listed {s : State} {d : Draw} {ds : List Draw} (h : s.draws = d :: ds) : nextDraw s = d := by
  simp [nextDraw, h]

theorem afterDraw_listed {s : State} {d : Draw} {ds : List Draw} (h : s.draws = d :: ds) :
    afterDraw s = { s with draws := ds } := by
  simp [afterDraw, h]

-- What each primitive gives back and leaves, by the environment's answer.

theorem linkWrite_ok {bytes : List Byte} {s : State} (h : (nextDraw s).ok = true) :
    linkWrite bytes s = (true, { afterDraw s with txq := s.txq ++ bytes }) := by
  simp [linkWrite, h]

theorem linkWrite_fail {bytes : List Byte} {s : State} (h : (nextDraw s).ok = false) :
    linkWrite bytes s =
      (false, { afterDraw s with txq := s.txq ++ bytes.take (min (nextDraw s).count (bytes.length - 1)) }) := by
  simp [linkWrite, writtenBytes, h]

theorem linkAvail_ok {s : State} (h : (nextDraw s).ok = true) : linkAvail s = (some s.rxq.length, afterDraw s) := by
  simp [linkAvail, h]

theorem linkAvail_fail {s : State} (h : (nextDraw s).ok = false) : linkAvail s = (none, afterDraw s) := by
  simp [linkAvail, h]

theorem linkRead_ok {n : Nat} {s : State} (h : (nextDraw s).ok = true) :
    linkRead n s = (some (s.rxq.take (readCount n (nextDraw s) s)),
      { afterDraw s with rxq := s.rxq.drop (readCount n (nextDraw s) s) }) :=
  if_pos h

theorem linkRead_fail {n : Nat} {s : State} (h : (nextDraw s).ok = false) : linkRead n s = (none, afterDraw s) := by
  simp [linkRead, h]

/-- Every number a read may return is the one some answer draws (R42). -/
theorem readCount_of_le {n m : Nat} {s : State} (hn : m ≤ n) (hq : m ≤ s.rxq.length) : readCount n ⟨true, m⟩ s = m := by
  simp only [readCount]; omega

-- The rows of the four primitives: refused while a transaction is in flight (R51, U8).

theorem exec_linkFlush (s : State) :
    exec .linkFlush s = if busy s then .refused .linkInUse else .next (linkFlush s) := rfl

theorem exec_linkWrite (bytes : List Byte) (s : State) : exec (.linkWrite bytes) s =
    if busy s then .refused .linkInUse
    else .next (giveBack (.written (linkWrite bytes s).1) (linkWrite bytes s).2) := rfl

theorem exec_linkAvail (s : State) : exec .linkAvail s =
    if busy s then .refused .linkInUse else .next (giveBack (.available (linkAvail s).1) (linkAvail s).2) := rfl

theorem exec_linkRead (n : Nat) (s : State) : exec (.linkRead n) s =
    if busy s then .refused .linkInUse
    else .next (giveBack (.received (linkRead n s).1) (linkRead n s).2) := rfl

/-- Settles O38: where the link is free the row is the flush of R39. -/
theorem linkFlushEmptiesBothQueues : Obligations.LinkFlushEmptiesBothQueues := by
  refine fun s => ⟨fun hb => ?_, fun hb => if_pos hb⟩
  rw [exec_linkFlush, if_neg (by simp [hb])]
  rfl

/-- Settles O39, by the environment's answer; the number of bytes a failing write hands over is the drawn one, cut to a
proper part, and a number below the length is not cut. -/
theorem linkWriteAppendsAllOrAProperPart : Obligations.LinkWriteAppendsAllOrAProperPart := by
  refine fun bytes s => ⟨fun hb => ?_, fun hb => if_pos hb⟩
  rw [exec_linkWrite, if_neg (by simp [hb])]
  refine ⟨fun hok => ?_, fun hfail => ⟨min (nextDraw s).count (bytes.length - 1), fun hne => ?_, ?_⟩,
    fun k ds hk hd => ?_⟩
  · rw [linkWrite_ok hok]; rfl
  · have := List.length_pos_iff.mpr hne
    omega
  · rw [linkWrite_fail hfail]; rfl
  · have hcut : min k (bytes.length - 1) = k := by omega
    rw [linkWrite_fail (by rw [nextDraw_listed hd]), nextDraw_listed hd, afterDraw_listed hd, hcut]
    rfl

/-- Settles O40, by the environment's answer. -/
theorem linkAvailCountsAndKeeps : Obligations.LinkAvailCountsAndKeeps := by
  refine fun s => ⟨fun hb => ?_, fun hb => if_pos hb⟩
  rw [exec_linkAvail, if_neg (by simp [hb])]
  refine ⟨fun hok => ?_, fun hfail => ?_⟩
  · rw [linkAvail_ok hok]; rfl
  · rw [linkAvail_fail hfail]; rfl

/-- Settles O41, by the environment's answer; the number of bytes taken is the drawn one, cut to the bytes asked for and
there, and a number within both is not cut. -/
theorem linkReadConsumesAtMostTheBytesAsked : Obligations.LinkReadConsumesAtMostTheBytesAsked := by
  refine fun n s => ⟨fun hb => ?_, fun hb => if_pos hb⟩
  rw [exec_linkRead, if_neg (by simp [hb])]
  refine ⟨fun hfail => ?_, fun hok => ?_, fun m ds hn hq hd => ?_⟩
  · rw [linkRead_fail hfail]; rfl
  · obtain ⟨hn, hq⟩ := readCount_le n (nextDraw s) s
    exact ⟨_, hn, hq, by rw [linkRead_ok hok]; rfl⟩
  · rw [linkRead_ok (by rw [nextDraw_listed hd]), nextDraw_listed hd, afterDraw_listed hd, readCount_of_le hn hq]
    rfl

theorem exec_envDrain (s : State) : exec .envDrain s = .next { s with txq := s.txq.drop 1 } := rfl

/-- Settles O42: the two steps of R43; dropping the head of an empty `TXQ` drops nothing. -/
theorem environmentStepsMoveTheQueues : Obligations.EnvironmentStepsMoveTheQueues := by
  refine fun s => ⟨fun b => rfl, fun hq => ?_, fun b q hq => ?_⟩ <;> rw [exec_envDrain]
  · rw [hq, List.drop_nil, ← hq]
  · rw [hq, List.drop_one, List.tail_cons]

end Sys2Proof.Machine
end

section
/-! Byte order (O60): a code is its high byte before its low one, an address's first byte is the most significant of the
number it encodes (R38). -/
namespace Sys2Proof.Machine

/-- A 16-bit value is read back from its two bytes. -/
theorem be16_hi8_lo8 (v : BitVec 16) : be16 (hi8 v) (lo8 v) = v.toNat := by
  have := v.isLt
  simp only [be16, hi8, lo8, BitVec.extractLsb'_toNat, Nat.shiftRight_eq_div_pow]
  omega

/-- The two conversions of a table code agree: its bytes are those of its value (R76, R77). -/
theorem be16_codeToBytes {c : Code} (h : ∀ hi lo, c ≠ .unknown hi lo) :
    be16 (codeToBytes c).1 (codeToBytes c).2 = (codeValue16 c).toNat := by
  cases c with
  | unknown hi lo => exact absurd rfl (h hi lo)
  | _ => exact be16_hi8_lo8 _

/-- The digits of `be32` to the base 256 are the address's bytes, the first the most significant. -/
theorem be32_digits (a : Addr) : be32 a / 2 ^ 24 = a.b0.toNat ∧ be32 a / 2 ^ 16 % 256 = a.b1.toNat ∧
    be32 a / 2 ^ 8 % 256 = a.b2.toNat ∧ be32 a % 256 = a.b3.toNat := by
  have h1 := a.b1.isLt
  have h2 := a.b2.isLt
  have h3 := a.b3.isLt
  simp only [be32]
  omega

theorem be32_injective {x y : Addr} (h : be32 x = be32 y) : x = y := by
  obtain ⟨x0, x1, x2, x3⟩ := be32_digits x
  obtain ⟨y0, y1, y2, y3⟩ := be32_digits y
  rw [h] at x0 x1 x2 x3
  cases x
  cases y
  simp only [Addr.mk.injEq]
  exact ⟨BitVec.eq_of_toNat_eq (x0.symm.trans y0), BitVec.eq_of_toNat_eq (x1.symm.trans y1),
    BitVec.eq_of_toNat_eq (x2.symm.trans y2), BitVec.eq_of_toNat_eq (x3.symm.trans y3)⟩

/-- Settles O60; the worked example is computed. -/
theorem byteOrderIsBigEndian : Obligations.ByteOrderIsBigEndian :=
  ⟨be16_hi8_lo8, fun _ _ h => be16_codeToBytes h, be32_digits, fun _ _ => be32_injective, rfl⟩

end Sys2Proof.Machine
end

section
/-! A reply that arrives right after the flush (O51): the turn that brings it, the run past the settle wait, the command,
the first poll and the read, and the transaction it answers (R166, R171). -/
namespace Sys2Proof.Machine

/-- The next turn of the environment completes `q` in `RXQ`, and at least `k` more turns are listed, all without a
byte. -/
def Arriving (q : List Byte) (k : Nat) (s : State) : Prop :=
  ∃ u us, s.turns = u :: us ∧ k ≤ us.length ∧ (∀ v ∈ us, v.deliver = []) ∧ s.rxq ++ u.deliver = q

theorem Arriving.envTurn_rxq {q : List Byte} {k : Nat} {s : State} (h : Arriving q k s) : (envTurn s).rxq = q := by
  obtain ⟨u, us, hu, -, -, hq⟩ := h
  simpa [nextTurn, hu] using hq

theorem Arriving.envTurn {q : List Byte} {k : Nat} {s : State} (h : Arriving q (k + 1) s) :
    Arriving q k (envTurn s) := by
  have hq := h.envTurn_rxq
  obtain ⟨u, us, hu, hk, hus, -⟩ := h
  obtain ⟨v, vs, rfl⟩ := List.exists_cons_of_length_pos (show 0 < us.length by omega)
  refine ⟨v, vs, by simp [hu], by simpa using hk, fun w hw => hus w (by simp [hw]), ?_⟩
  rw [hq, hus v (by simp), List.append_nil]

theorem Arriving.waitMs {q : List Byte} {k n : Nat} {s : State} (h : Arriving q (n + k) s) :
    Arriving q k (waitMs n s) := by
  induction n generalizing s with
  | zero => exact Nat.zero_add k ▸ h
  | succ n ih => exact ih (Nat.succ_add n k ▸ h).envTurn

@[simp] theorem waitMs_draws (n : Nat) (s : State) : (waitMs n s).draws = s.draws := by
  induction n generalizing s with
  | zero => rfl
  | succ n ih => exact ih _

-- What the engine's steps do on this path.

theorem buildCommand_some {s : State} (h : s.reqLen.toNat ≤ 240) : ∃ f, buildCommand s = some f := by
  obtain ⟨f, hf, -⟩ := encodeCommand_some (c := requestedCommand s) (by simp [requestedCommand]; omega)
  exact ⟨f, hf⟩

theorem stepSettleDone_of_frame {p : Params} {s : State} {f : List Byte} (hp : s.phase = .settle)
    (ht : s.tmr = p.tSettle) (hf : buildCommand s = some f) : stepSettleDone p s = .next (loadFrame f s) := by
  simp [stepSettleDone, hp, ht, hf]

theorem stepWrite_ok {p : Params} {s : State} (hp : s.phase = .write) (hok : (nextDraw s).ok = true) :
    stepWrite p s = .next (startPolling p { afterDraw s with txq := s.txq ++ txFrame s }) := by
  simp [stepWrite, hp, linkWrite_ok hok]

theorem stepPoll_enough {p : Params} {s : State} (hp : s.phase = .poll) (ht : s.pollTmr = p.tPoll)
    (hok : (nextDraw s).ok = true) (hn : s.expLen.toNat ≤ s.rxq.length) :
    stepPoll p s = .next { afterDraw s with phase := .read } := by
  simp [stepPoll, hp, ht, linkAvail_ok hok, afterAvail, hn]

/-- A read that is answered with all of `RXQ`, a frame of the expected length, ends the transaction with its record. -/
theorem stepRead_all {p : Params} {s : State} {r : Response} (hp : s.phase = .read)
    (hd : nextDraw s = ⟨true, s.rxq.length⟩) (hn : s.rxq.length = s.expLen.toNat)
    (hr : decodeResponse p s.rxq = some r) :
    stepRead p s = .next { storeReceived s.rxq { afterDraw s with rxq := [] } with
      rsp := r, resKind := .ok, resCount := 0, phase := .done } := by
  have hread : linkRead s.expLen.toNat s = (some s.rxq, { afterDraw s with rxq := [] }) := by
    rw [linkRead_ok (by rw [hd]), hd, readCount_of_le hn.le le_rfl, List.take_length, List.drop_length]
  have hl : s.rxq.length < 256 := hn ▸ s.expLen.isLt
  simp [stepRead, hp, hread, afterRead, hn, complete, rxFrame_storeReceived _ hl, hr]

/-- A run of at most `m` steps from `s` ends with the response `r`, `d` milliseconds later, `RXQ` empty and the answers
`ds` still to come. -/
def Answers (p : Params) (r : Response) (ds : List Draw) (m d : Nat) (s : State) : Prop :=
  ∃ t, engineRun p m s = .next t ∧ t.phase = .done ∧ txResult t = some (.ok r) ∧ t.now = s.now + d ∧ t.rxq = [] ∧
    t.draws = ds

section
variable {p : Params} {q : List Byte} {r : Response} {ds : List Draw} {m d w a : Nat} {s t : State}

/-- A run answers if it does from where the machine's next step leads, a step that takes no time. -/
theorem Answers.of_advance (hp : s.phase ≠ .done) (h : advance p (envTurn s) = .next t) (hn : t.now = s.now)
    (ht : Answers p r ds m d t) : Answers p r ds (m + 1) d s := by
  unfold Answers at ht ⊢
  rwa [engineRun_succ hp, h, andThen_next, ← hn]

/-- In `READ`: the read takes all of the reply. -/
theorem answers_read (hr : decodeResponse p q = some r) (hp : s.phase = .read) (hl : q.length = s.expLen.toNat)
    (hq : Arriving q 0 s) (hd : s.draws = ⟨true, q.length⟩ :: ds) : Answers p r ds (m + 1) 0 s := by
  have hqs := hq.envTurn_rxq
  have hdraw : nextDraw (envTurn s) = ⟨true, q.length⟩ := nextDraw_listed hd
  have hread := (advance_read (p := p) (s := envTurn s) hp).trans <| stepRead_all hp (hqs.symm ▸ hdraw)
    (hqs.symm ▸ hl) (hqs.symm ▸ hr)
  refine .of_advance (by simp [hp]) hread rfl ⟨_, engineRun_done rfl, rfl, rfl, rfl, rfl, ?_⟩
  simp [storeReceived, hd]

/-- In `POLL` with a poll due: the poll finds the reply. -/
theorem answers_poll (hr : decodeResponse p q = some r) (hp : s.phase = .poll) (ht : s.pollTmr = p.tPoll)
    (hl : q.length = s.expLen.toNat) (hq : Arriving q 1 s) (hd : s.draws = ⟨true, a⟩ :: ⟨true, q.length⟩ :: ds) :
    Answers p r ds (m + 2) 0 s := by
  have hdraw : nextDraw (envTurn s) = ⟨true, a⟩ := nextDraw_listed hd
  have henough : (envTurn s).expLen.toNat ≤ (envTurn s).rxq.length := hq.envTurn_rxq.symm ▸ hl.ge
  have hpoll := (advance_poll (p := p) (s := envTurn s) hp ht).trans <| stepPoll_enough hp ht (by rw [hdraw]) henough
  exact .of_advance (by simp [hp]) hpoll rfl <| answers_read hr rfl hl hq.envTurn (by simp [hd])

/-- In `WRITE`: the frame is handed over, and the first poll is due at once. -/
theorem answers_write (hr : decodeResponse p q = some r) (hp : s.phase = .write) (hl : q.length = s.expLen.toNat)
    (hq : Arriving q 2 s) (hd : s.draws = ⟨true, w⟩ :: ⟨true, a⟩ :: ⟨true, q.length⟩ :: ds) :
    Answers p r ds (m + 3) 0 s := by
  have hdraw : nextDraw (envTurn s) = ⟨true, w⟩ := nextDraw_listed hd
  have hwrite := (advance_write (p := p) (s := envTurn s) hp).trans <| stepWrite_ok hp (by rw [hdraw])
  exact .of_advance (by simp [hp]) hwrite rfl <| answers_poll (a := a) hr rfl rfl hl hq.envTurn (by simp [hd])

/-- In `SETTLE`, the wait over: the command is built. -/
theorem answers_settleDone (hr : decodeResponse p q = some r) (hp : s.phase = .settle) (ht : s.tmr = p.tSettle)
    (hlen : s.reqLen.toNat ≤ 240) (hl : q.length = s.expLen.toNat) (hq : Arriving q 3 s)
    (hd : s.draws = ⟨true, w⟩ :: ⟨true, a⟩ :: ⟨true, q.length⟩ :: ds) : Answers p r ds (m + 4) 0 s := by
  obtain ⟨f, hf⟩ := buildCommand_some (s := envTurn s) hlen
  have hdone := (advance_settle (p := p) (s := envTurn s) hp ht).trans <| stepSettleDone_of_frame hp ht hf
  exact .of_advance (by simp [hp]) hdone rfl <| answers_write hr rfl hl hq.envTurn hd

/-- From acceptance on: the settle wait passes first. -/
theorem answers_settle (hr : decodeResponse p q = some r) (hp : s.phase = .settle) (ht : s.tmr = 0)
    (hlen : s.reqLen.toNat ≤ 240) (hl : q.length = s.expLen.toNat) (hq : Arriving q (p.tSettle + 3) s)
    (hd : s.draws = ⟨true, w⟩ :: ⟨true, a⟩ :: ⟨true, q.length⟩ :: ds) :
    Answers p r ds (p.tSettle + (m + 4)) p.tSettle s := by
  unfold Answers
  rw [engineRun_settle _ _ s hp (by omega), ← waitMs_now]
  exact answers_settleDone hr hp (by simp [ht]) hlen hl hq.waitMs ((waitMs_draws _ _).trans hd)

end

/-- A transaction whose run answers ends with that response, acknowledged. -/
theorem call_of_answers {p : Params} {code : Code} {dst : Addr} {pay : List Byte} {s : State} {r : Response}
    {ds : List Draw} {d : Nat} (hp : s.phase = .idle) (hl : pay.length ≤ 240)
    (h : Answers p r ds (stepBound p) d (accept code dst pay s)) :
    ∃ t, call p code dst pay s = .next (.ok r, t) ∧ t.now = s.now + d ∧ t.rxq = [] ∧ t.draws = ds := by
  obtain ⟨t, hrun, hdone, hres, hnow, hq, hd⟩ := h
  have hreq : stepRequest code dst pay s = .next (accept code dst pay s) := by
    simp [stepRequest, hp, Config.cmdDataMax, Nat.not_lt.mpr hl]
  refine ⟨acknowledge t, ?_, by simpa using hnow, hq, hd⟩
  simp [call, hreq, hrun, finish, hdone, hres]

/-- Settles O51: the reply is in `RXQ` from the first turn on, so the first poll after the settle wait finds it. -/
theorem replyAfterTheFlushIsTheAnswer : Obligations.ReplyAfterTheFlushIsTheAnswer := by
  intro p code dst pay q r s ts n ds w a _ hp hl hc _ hq hr hturns hts hquiet hd
  have hregs := accept_requestRegs (code := code) (dst := dst) (pay := pay) hc
  simp only [requestRegs, Prod.mk.injEq] at hregs
  obtain ⟨-, -, hlen, -, hexp⟩ := hregs
  have hlen' : (accept code dst pay s).reqLen.toNat ≤ 240 := by
    rw [hlen, BitVec.toNat_ofNat]; omega
  have hexp' : q.length = (accept code dst pay s).expLen.toNat := by
    have := expectedResponseLen_le code
    rw [hexp, BitVec.toNat_ofNat, hq]; omega
  have harr : Arriving q (p.tSettle + 3) (accept code dst pay s) :=
    ⟨⟨q, n⟩, ts, by simpa [accept, hc] using hturns, hts, hquiet, by simp [accept, hc]⟩
  obtain ⟨m, hm⟩ : ∃ m, stepBound p = p.tSettle + (m + 4) :=
    ⟨p.tPoll * (p.tTimeout / p.tPoll + 1) + p.tTimeout / p.tPoll + 1, by simp only [stepBound, pollBound]; omega⟩
  have hans : Answers p r ds (stepBound p) p.tSettle (accept code dst pay s) :=
    hm ▸ answers_settle hr (by simp [accept_phase, hc]) (by simp [accept, hc]) hlen' hexp' harr
      (by simpa [accept, hc] using hd)
  obtain ⟨t, ht, hnow, hrxq, hdraws⟩ := call_of_answers hp hl hans
  exact ⟨t, ht, hnow, hrxq, (call_ok ht rfl).1, hdraws⟩

end Sys2Proof.Machine
end

section
/-! The codec as both directions use it: the codes and their bytes (R66, R74 to R76), the checksum as a sum (R73), and
the layout of a frame (R55 to R57, R60 to R65) as one function of its free bytes. The encoders give a frame of this
layout, a buffer a decoder takes begins with one, and its fields are read back from it. -/
namespace Sys2Proof.Machine

-- The codes and their bytes.

/-- The bytes a code is read from are the bytes it is written as (R74, R76). -/
theorem codeToBytes_codeFromBytes (hi lo : Byte) : codeToBytes (codeFromBytes hi lo) = (hi, lo) := by
  rw [codeFromBytes_pairs]
  split_ifs <;> simp_all

/-- A catch-all is canonical when its bytes are no table code's (R66, R75). -/
theorem codeCanonical_unknown_iff {hi lo : Byte} : codeCanonical (.unknown hi lo) = true ↔ (hi, lo) ∉ tableBytes := by
  simp only [codeCanonical_unknown, tableBytes, Bool.not_eq_true', List.contains_eq_mem, decide_eq_false_iff_not,
    List.mem_cons, List.not_mem_nil, or_false, be16_eq_iff (show be16 0x01 0x01 = 0x0101 from rfl),
    be16_eq_iff (show be16 0xFF 0x01 = 0xFF01 from rfl), be16_eq_iff (show be16 0xFF 0x03 = 0xFF03 from rfl),
    be16_eq_iff (show be16 0xFF 0x04 = 0xFF04 from rfl), be16_eq_iff (show be16 0x40 0x0A = 0x400A from rfl)]

theorem codeFromBytes_of_not_mem {hi lo : Byte} (h : (hi, lo) ∉ tableBytes) : codeFromBytes hi lo = .unknown hi lo := by
  simp only [tableBytes, List.mem_cons, List.not_mem_nil, or_false, not_or] at h
  obtain ⟨h1, h2, h3, h4, h5⟩ := h
  rw [codeFromBytes_pairs, if_neg h1, if_neg h2, if_neg h3, if_neg h4, if_neg h5]

/-- A canonical code is read back from its bytes (R74 to R76). -/
theorem codeFromBytes_codeToBytes {c : Code} (h : codeCanonical c = true) :
    codeFromBytes (codeToBytes c).1 (codeToBytes c).2 = c := by
  cases c
  case unknown hi lo => exact codeFromBytes_of_not_mem (codeCanonical_unknown_iff.mp h)
  all_goals simp [codeFromBytes_pairs]

/-- A code read from bytes is canonical (R75). -/
theorem codeCanonical_codeFromBytes (hi lo : Byte) : codeCanonical (codeFromBytes hi lo) = true := by
  by_cases h : (hi, lo) ∈ tableBytes
  · simp only [tableBytes, List.mem_cons, Prod.mk.injEq, List.not_mem_nil, or_false] at h
    obtain ⟨rfl, rfl⟩ | ⟨rfl, rfl⟩ | ⟨rfl, rfl⟩ | ⟨rfl, rfl⟩ | ⟨rfl, rfl⟩ := h <;>
      simp [codeFromBytes_pairs, codeCanonical]
  · rw [codeFromBytes_of_not_mem h]
    exact codeCanonical_unknown_iff.mpr h

-- The checksum, and the five checks of a decoder.

/-- The checksum is the sum of the bytes modulo 256 (R73). -/
theorem checksum_toNat (b : List Byte) : (checksum b).toNat = byteSum b % 256 := by
  induction b with
  | nil => rfl
  | cons x b ih => simp [byteSum, ih, BitVec.toNat_add]

theorem getElem?_eq_some_iff_byteAt {b : List Byte} {i : Nat} (h : i < b.length) (x : Byte) :
    b[i]? = some x ↔ byteAt b i = x := by
  rw [getElem?_byteAt h, Option.some_inj]

/-- The decoders' five checks, on the bytes that are there (R92, R93). -/
theorem frameLength_eq_some_iff_frameAt {min len : Nat} {buf : List Byte} (hmin : 3 ≤ min) :
    frameLength min buf = some len ↔ frameAt min buf len := by
  rw [frameLength_eq_some, frameAt]
  refine and_congr_right fun hlen => ?_
  have h0 := getElem?_eq_some_iff_byteAt (b := buf) (i := 0) (by omega)
  have h2 := getElem?_eq_some_iff_byteAt (b := buf) (i := 2) (by omega)
  simp only [h0, h2, exists_eq_left', Config.preamble]
  refine and_congr_right fun _ => and_congr_right fun _ => and_congr_right fun hml => and_congr_right fun hll => ?_
  have hlast := getElem?_eq_some_iff_byteAt (b := buf) (i := len - 1) (by omega)
  simp only [hlast, exists_eq_left', ← checksum_toNat, BitVec.toNat_inj]
  exact eq_comm

/-- A frame's length is between the format's minimum and what byte 2 can hold (R60). -/
theorem frameLength_bounds {min len : Nat} {buf : List Byte} (h : frameLength min buf = some len) :
    min ≤ len ∧ len ≤ 255 := by
  obtain ⟨-, -, rfl, hmin, -, -⟩ := frameLength_eq_some.mp h
  exact ⟨hmin, by omega⟩

-- The layout of a frame.

/-- The twelve bytes before a frame's code or error flag: the header, with free bytes at the offsets 1 and 3 the
decoders do not examine (R68), and the two addresses. -/
def headOf (x1 len x3 : Byte) (dst src : Addr) : List Byte :=
  [Config.preamble, x1, len, x3] ++ addrBytes dst ++ addrBytes src

@[simp] theorem headOf_length (x1 len x3 : Byte) (dst src : Addr) : (headOf x1 len x3 dst src).length = 12 := rfl

/-- A frame with the bytes `t` between the addresses and the checksum. -/
def frameOf (x1 x3 : Byte) (dst src : Addr) (t : List Byte) : List Byte :=
  sealFrame (headOf x1 (BitVec.ofNat 8 (13 + t.length)) x3 dst src ++ t)

@[simp] theorem frameOf_length (x1 x3 : Byte) (dst src : Addr) (t : List Byte) :
    (frameOf x1 x3 dst src t).length = 13 + t.length := by
  simp [frameOf]; omega

@[simp] theorem take_frameOf_append (x1 x3 : Byte) (dst src : Addr) (t rest : List Byte) :
    (frameOf x1 x3 dst src t ++ rest).take (13 + t.length) = frameOf x1 x3 dst src t := by
  rw [← frameOf_length x1 x3 dst src t, List.take_left]

@[simp] theorem drop_frameOf_append (x1 x3 : Byte) (dst src : Addr) (t rest : List Byte) :
    (frameOf x1 x3 dst src t ++ rest).drop (13 + t.length) = rest := by
  rw [← frameOf_length x1 x3 dst src t, List.drop_left]

/-- Byte 2 is the length of the whole frame (R60). -/
theorem byteAt_two_frameOf {x1 x3 : Byte} {dst src : Addr} {t : List Byte} (h : t.length ≤ 242) (rest : List Byte) :
    (byteAt (frameOf x1 x3 dst src t ++ rest) 2).toNat = 13 + t.length := by
  show (BitVec.ofNat 8 (13 + t.length)).toNat = 13 + t.length
  rw [BitVec.toNat_ofNat]; omega

/-- From the offset `12 + k` on, a frame holds what is behind the first `k` bytes of `t`, up to the checksum. -/
theorem slice_frameOf_append (x1 x3 : Byte) (dst src : Addr) (t rest : List Byte) (k : Nat) :
    slice (frameOf x1 x3 dst src t ++ rest) (12 + k) (13 + t.length - 1) = t.drop k := by
  have hend : 13 + t.length - 1 = 12 + t.length := by omega
  simp [slice, hend, frameOf, sealFrame, List.take_append, List.drop_append]

/-- Two frames with the same addresses are equal only when their free bytes are. -/
theorem frameOf_inj {x1 x3 y1 y3 : Byte} {dst src : Addr} {t u : List Byte} :
    frameOf x1 x3 dst src t = frameOf y1 y3 dst src u ↔ x1 = y1 ∧ x3 = y3 ∧ t = u := by
  constructor
  · intro h
    have hbytes := (List.append_inj' h rfl).1
    simp [headOf] at hbytes
    exact ⟨hbytes.1, hbytes.2.2⟩
  · rintro ⟨rfl, rfl, rfl⟩; rfl

/-- The Command encoder's frame (R56, R86). -/
theorem encodeCommand_eq_frameOf {c : Command} (h : c.payload.length ≤ 240) : encodeCommand c =
    some (frameOf 0x01 0x00 c.dst c.src ((codeToBytes c.code).1 :: (codeToBytes c.code).2 :: c.payload)) := by
  have hlen : 13 + (c.payload.length + 1 + 1) = Config.cmdOverhead + c.payload.length := by
    simp only [Config.cmdOverhead]; omega
  have hfit : ¬ Config.cmdDataMax < c.payload.length := Nat.not_lt.mpr h
  simp [encodeCommand, frameOf, headOf, header, hfit, hlen, Config.hdr1, Config.hdr3]

/-- The Usual encoder's frame (R57, R88). -/
theorem encodeUsual_eq_frameOf {r : Response} (h : r.payload.length ≤ 241) :
    encodeUsual r = some (frameOf 0x01 0x00 r.dst r.src (errorByte r.error :: r.payload)) := by
  have hlen : 13 + (r.payload.length + 1) = Config.rspOverhead + r.payload.length := by
    simp only [Config.rspOverhead]; omega
  have hfit : ¬ Config.rspDataMax < r.payload.length := Nat.not_lt.mpr h
  simp [encodeUsual, frameOf, headOf, header, hfit, hlen, Config.hdr1, Config.hdr3]

/-- A frame's last byte is the checksum of those before it, so a decoder's checks pass, whatever follows (R92, R93). -/
theorem frameLength_frameOf {min : Nat} {x1 x3 : Byte} {dst src : Addr} {t : List Byte} (hmin : min ≤ 13 + t.length)
    (hmax : t.length ≤ 242) (rest : List Byte) :
    frameLength min (frameOf x1 x3 dst src t ++ rest) = some (13 + t.length) := by
  rw [frameLength_eq_some]
  refine ⟨by simp; omega, rfl, byteAt_two_frameOf hmax rest, hmin, by simp, ?_⟩
  have hbody : 13 + t.length - 1 = (headOf x1 (BitVec.ofNat 8 (13 + t.length)) x3 dst src ++ t).length := by simp
  rw [List.take_append_of_le_length (by simp), byteAt_append_left (by simp), frameOf, sealFrame, hbody, List.take_left,
    byteAt_append_right le_rfl, Nat.sub_self]
  rfl

/-- A buffer's twelve bytes of header and addresses (R55, R61). -/
theorem take_twelve {b : List Byte} (h0 : byteAt b 0 = Config.preamble) (h : 12 ≤ b.length) :
    b.take 12 = headOf (byteAt b 1) (byteAt b 2) (byteAt b 3) (addrAt b 4) (addrAt b 8) := by
  have hget : ∀ i < 12, b[i]?.toList = [byteAt b i] := fun i hi => by rw [getElem?_byteAt (by omega)]; rfl
  simp [List.take_add_one, hget, headOf, addrBytes, addrAt, h0]

/-- A buffer a decoder takes begins with a frame of the layout (R92, R93). -/
theorem exists_frameOf {min len : Nat} {buf : List Byte} (hmin : 13 ≤ min) (h : frameLength min buf = some len) :
    ∃ x1 x3 dst src t rest, buf = frameOf x1 x3 dst src t ++ rest ∧ len = 13 + t.length := by
  obtain ⟨-, hpre, hdecl, hml, hlen, hsum⟩ := frameLength_eq_some.mp h
  have htail : (slice buf 12 (len - 1)).length + 13 = len := by simp; omega
  have hbyte2 : BitVec.ofNat 8 (13 + (slice buf 12 (len - 1)).length) = byteAt buf 2 := by
    rw [Nat.add_comm, htail, ← hdecl, BitVec.ofNat_toNat, BitVec.setWidth_eq]
  have htake : (buf.take (len - 1)).take 12 = buf.take 12 := by rw [List.take_take, Nat.min_eq_left (by omega)]
  have hbody : headOf (byteAt buf 1) (byteAt buf 2) (byteAt buf 3) (addrAt buf 4) (addrAt buf 8) ++
      slice buf 12 (len - 1) = buf.take (len - 1) := by
    rw [← take_twelve hpre (by omega), ← htake, slice, List.take_append_drop]
  have hframe : frameOf (byteAt buf 1) (byteAt buf 3) (addrAt buf 4) (addrAt buf 8) (slice buf 12 (len - 1)) =
      buf.take len := by
    rw [frameOf, hbyte2, hbody, sealFrame, hsum]
    conv_rhs => rw [show len = len - 1 + 1 by omega, List.take_add_one, getElem?_byteAt (by omega)]
    rfl
  exact ⟨_, _, _, _, _, buf.drop len, by rw [hframe, List.take_append_drop], by omega⟩

/-- `DecodeCommand` of a frame: its fields (R92). -/
theorem decodeCommand_frameOf {pay : List Byte} (h : pay.length ≤ 240) (x1 x3 : Byte) (dst src : Addr) (hi lo : Byte)
    (rest : List Byte) : decodeCommand (frameOf x1 x3 dst src (hi :: lo :: pay) ++ rest) =
      some ⟨dst, src, codeFromBytes hi lo, pay⟩ := by
  have hpay := slice_frameOf_append x1 x3 dst src (hi :: lo :: pay) rest 2
  rw [decodeCommand_eq, frameLength_frameOf (by simp; omega) (by simp; omega), Option.map_some, hpay]
  rfl

/-- `DecodeResponse` of a frame: its fields (R93). -/
theorem decodeResponse_frameOf {pay : List Byte} (h : pay.length ≤ 241) (p : Params) (x1 x3 : Byte) (dst src : Addr)
    (e : Byte) (rest : List Byte) : decodeResponse p (frameOf x1 x3 dst src (e :: pay) ++ rest) =
      some ⟨dst, src, errorFlag p e, .usual, pay⟩ := by
  have hpay := slice_frameOf_append x1 x3 dst src (e :: pay) rest 1
  rw [decodeResponse_eq, frameLength_frameOf (by simp; omega) (by simp; omega), Option.map_some, hpay]
  rfl

/-- A buffer `DecodeCommand` takes begins with two addresses, a code and a payload the encoder accepts, in a frame. -/
theorem exists_commandFrame {buf : List Byte} {len : Nat} (h : frameAt 15 buf len) :
    ∃ x1 x3 dst src hi lo pay rest, buf = frameOf x1 x3 dst src (hi :: lo :: pay) ++ rest ∧
      len = 13 + (hi :: lo :: pay).length ∧ pay.length ≤ 240 := by
  have hframe := (frameLength_eq_some_iff_frameAt (by decide)).mpr h
  obtain ⟨hmin, hmax⟩ := frameLength_bounds hframe
  obtain ⟨x1, x3, dst, src, t, rest, hbuf, hlen⟩ := exists_frameOf (by decide) hframe
  match t with
  | [] | [_] => simp at hlen; omega
  | hi :: lo :: pay => exact ⟨x1, x3, dst, src, hi, lo, pay, rest, hbuf, hlen, by simp at hlen; omega⟩

/-- A buffer `DecodeResponse` takes begins with two addresses, an error byte and a payload the encoder accepts, in a
frame. -/
theorem exists_usualFrame {buf : List Byte} {len : Nat} (h : frameAt 14 buf len) :
    ∃ x1 x3 dst src e pay rest, buf = frameOf x1 x3 dst src (e :: pay) ++ rest ∧
      len = 13 + (e :: pay).length ∧ pay.length ≤ 241 := by
  have hframe := (frameLength_eq_some_iff_frameAt (by decide)).mpr h
  obtain ⟨hmin, hmax⟩ := frameLength_bounds hframe
  obtain ⟨x1, x3, dst, src, t, rest, hbuf, hlen⟩ := exists_frameOf (by decide) hframe
  match t with
  | [] => simp at hlen; omega
  | e :: pay => exact ⟨x1, x3, dst, src, e, pay, rest, hbuf, hlen, by simp at hlen; omega⟩

end Sys2Proof.Machine
end

section
/-! Decoding inverts encoding (O57), and words written out from the spec's encodings decode (O56). -/
namespace Sys2Proof

open Machine

@[simp] theorem takeByte_cons (b : Byte) (rest : List Byte) : takeByte (b :: rest) = some (b, rest) := rfl

/-- A plan that begins with a frame of the station's, in the encoders' header, begins with its command row. -/
theorem decodeWire_of_stationCommand {buf : List Byte} {i : Instr} (hlen : 4 ≤ buf.length)
    (h1 : byteAt buf 1 = Config.hdr1) (h3 : byteAt buf 3 = Config.hdr3)
    (h : stationCommand (buf.take (byteAt buf 2).toNat) = some i) :
    decodeWire buf = (i, buf.drop (byteAt buf 2).toNat) := by
  simp only [decodeWire, hlen, h1, h3, h, and_self, if_true]

/-- A Command frame from the station, whatever follows, is the command row of what `DecodeCommand` finds in it. -/
theorem decodeWire_frameOf {dst src : Addr} {t : List Byte} {c : Command} (ht : t.length ≤ 242)
    (h : decodeCommand (frameOf 0x01 0x00 dst src t) = some c) (hs : c.src = Config.stationAddr) (rest : List Byte) :
    decodeWire (frameOf 0x01 0x00 dst src t ++ rest) = (commandInstr c, rest) := by
  have hlen := byteAt_two_frameOf (x1 := 0x01) (x3 := 0x00) (dst := dst) (src := src) ht rest
  have hcmd : stationCommand ((frameOf 0x01 0x00 dst src t ++ rest).take
      (byteAt (frameOf 0x01 0x00 dst src t ++ rest) 2).toNat) = some (commandInstr c) := by
    rw [hlen, take_frameOf_append, stationCommand, h, Option.bind_some, if_pos hs]
  rw [decodeWire_of_stationCommand (by simp; omega) rfl rfl hcmd, hlen, drop_frameOf_append]

/-- A station's frame at the front of a plan is the command row of its code (R86, R92, R103). -/
theorem decode_commandWords {code : Code} {dst : Addr} {pay : List Byte} (hc : codeCanonical code = true)
    (hp : pay.length ≤ 240) (rest : List Byte) : decode (commandWords code dst pay ++ rest) =
      .ok (commandInstr ⟨dst, Config.stationAddr, code, pay⟩, rest) := by
  have hw : commandWords code dst pay =
      frameOf 0x01 0x00 dst Config.stationAddr ((codeToBytes code).1 :: (codeToBytes code).2 :: pay) := by
    rw [commandWords, encodeCommand_eq_frameOf hp]; rfl
  have hcmd := decodeCommand_frameOf hp 0x01 0x00 dst Config.stationAddr (codeToBytes code).1 (codeToBytes code).2 []
  rw [List.append_nil, codeFromBytes_codeToBytes hc] at hcmd
  rw [hw, ← decodeWire_frameOf (by simp; omega) hcmd rfl rest]
  rfl

/-- A selector's operation is read when its operands parse and it is well-formed. -/
theorem decode_of_decodeSelector {b : Byte} {l : List Byte} {x : Instr × List Byte} (hb : b ∈ selectors)
    (hd : decodeSelector b l = some x) (hw : x.1.wf = true) : decode (b :: l) = .ok x := by
  have hne : b ≠ Config.preamble := by rintro rfl; exact absurd hb (by decide)
  simp [decode, hne, hb, hd, hw]

/-- Settles O57: a command row by the round trip of the station's frame, every other operation by its selector, whose
operand readers invert their writers. -/
theorem decodeInvertsEncode : Obligations.DecodeInvertsEncode := by
  intro i rest hw
  cases i
  case readInput dst pay => exact decode_commandWords (code := .readInput) rfl (of_decide_eq_true hw) rest
  case setOutput dst pay => exact decode_commandWords (code := .setOutput) rfl (of_decide_eq_true hw) rest
  case setAddress dst pay => exact decode_commandWords (code := .setAddress) rfl (of_decide_eq_true hw) rest
  case readAddress dst pay => exact decode_commandWords (code := .readAddress) rfl (of_decide_eq_true hw) rest
  case readFirmwareVersion dst pay =>
    exact decode_commandWords (code := .readFirmwareVersion) rfl (of_decide_eq_true hw) rest
  case unknown hi lo dst pay =>
    obtain ⟨hc, hp⟩ := Bool.and_eq_true_iff.mp hw
    exact decode_commandWords hc (of_decide_eq_true hp) rest
  all_goals exact decode_of_decodeSelector (by decide) (by simp [decodeSelector]) hw

/-- The words of a well-formed operation decode to it alone. -/
theorem decode_of_encode_eq {i : Instr} {w : List Byte} (hw : i.wf = true) (h : encode i = w) :
    decode w = .ok (i, []) := by
  rw [← h, ← List.append_nil (encode i)]
  exact decodeInvertsEncode i [] hw

/-- Settles O56: each frame is what its operation encodes to. -/
theorem writtenOutWordsDecode : Obligations.WrittenOutWordsDecode := by
  refine ⟨decode_of_encode_eq rfl ?readAddress, decode_of_encode_eq rfl ?readInput,
    decode_of_encode_eq rfl ?readFirmwareVersion, decode_of_encode_eq rfl ?setOutput,
    decode_of_encode_eq rfl ?setAddress, decode_of_encode_eq (by decide) ?unknown,
    decodeInvertsEncode .tick [0x42] rfl⟩
  all_goals decide

end Sys2Proof
end

section
/-! What the decoder gives (O58): well-formed operations only, and fewer bytes than it took. -/
namespace Sys2Proof

open Machine

/-- What a reader of a string of `n` bytes gives leaves no more than `n` bytes. -/
def LeavesAtMost {α : Type} (n : Nat) (o : Option (α × List Byte)) : Prop := ∀ x ∈ o, x.2.length ≤ n

section
variable {α β : Type} {n : Nat} {o : Option (α × List Byte)}

@[simp] theorem leavesAtMost_none : LeavesAtMost n (none : Option (α × List Byte)) := by simp [LeavesAtMost]

@[simp] theorem leavesAtMost_some {x : α × List Byte} : LeavesAtMost n (some x) ↔ x.2.length ≤ n := by
  simp [LeavesAtMost]

theorem LeavesAtMost.map (h : LeavesAtMost n o) (f : α × List Byte → β) :
    LeavesAtMost n (o.map fun x => (f x, x.2)) := by
  intro y hy
  obtain ⟨x, hx, rfl⟩ := Option.map_eq_some_iff.mp hy
  exact h x hx

/-- A reader that goes on where another ended. -/
theorem LeavesAtMost.bind {k : α × List Byte → Option (β × List Byte)} (h : LeavesAtMost n o)
    (hk : ∀ x, LeavesAtMost x.2.length (k x)) : LeavesAtMost n (o.bind k) := by
  intro y hy
  obtain ⟨x, hx, hxy⟩ := Option.bind_eq_some_iff.mp hy
  exact (hk x y hxy).trans (h x hx)

end

section
variable (l : List Byte)

theorem takeByte_leaves : LeavesAtMost l.length (takeByte l) := by
  cases l <;> simp [takeByte]

theorem takeBytes_leaves : LeavesAtMost l.length (takeBytes l) := fun _ hx => (takeBytes_shorter hx).le

theorem takeNat_leaves : LeavesAtMost l.length (takeNat l) := fun _ hx => (takeNat_shorter hx).le

theorem takeAddr_leaves : LeavesAtMost l.length (takeAddr l) := by
  unfold takeAddr
  split <;> simp
  omega

theorem takeBool_leaves : LeavesAtMost l.length (takeBool l) := by
  unfold takeBool
  repeat' split
  all_goals simp

theorem takeShape_leaves : LeavesAtMost l.length (takeShape l) := by
  unfold takeShape
  repeat' split
  all_goals simp

theorem takeKind_leaves : LeavesAtMost l.length (takeKind l) := by
  unfold takeKind
  repeat' split
  all_goals simp

theorem takeCode_leaves : LeavesAtMost l.length (takeCode l) := by
  unfold takeCode
  repeat' split
  all_goals simp
  omega

theorem takeCommand_leaves : LeavesAtMost l.length (takeCommand l) :=
  (takeAddr_leaves l).bind fun _ => (takeAddr_leaves _).bind fun _ => (takeCode_leaves _).bind fun _ =>
    (takeBytes_leaves _).map _

theorem takeResponse_leaves : LeavesAtMost l.length (takeResponse l) :=
  (takeAddr_leaves l).bind fun _ => (takeAddr_leaves _).bind fun _ => (takeBool_leaves _).bind fun _ =>
    (takeShape_leaves _).bind fun _ => (takeBytes_leaves _).map _

theorem takeCall_leaves : LeavesAtMost l.length (takeCall l) :=
  (takeCode_leaves l).bind fun _ => (takeAddr_leaves _).bind fun _ => (takeBytes_leaves _).map _

/-- The operands of an operation leave no more bytes than stand behind its selector. -/
theorem decodeSelector_leaves (sel : Byte) : LeavesAtMost l.length (decodeSelector sel l) := by
  unfold decodeSelector
  split
  case h_1 | h_2 | h_5 | h_16 | h_17 | h_28 => exact (takeBytes_leaves l).map _
  case h_3 => exact (takeAddr_leaves l).bind fun _ => (takeAddr_leaves _).map _
  case h_6 => exact (takeByte_leaves l).bind fun _ => (takeByte_leaves _).map _
  case h_7 | h_8 | h_9 | h_10 => exact (takeCode_leaves l).map _
  case h_11 => exact (takeCommand_leaves l).map _
  case h_12 | h_13 | h_14 | h_15 => exact (takeResponse_leaves l).map _
  case h_18 => exact (takeKind_leaves l).bind fun _ => (takeBytes_leaves _).map _
  case h_19 | h_20 => exact (takeCall_leaves l).map _
  case h_30 => exact (takeNat_leaves l).map _
  case h_31 => exact (takeByte_leaves l).map _
  case h_35 => exact (takeAddr_leaves l).map _
  all_goals simp

end

/-- What is decoded of a Command has a canonical code and a payload the Command encoder accepts (R60, R66). -/
theorem decodeCommand_some {buf : List Byte} {c : Command} (h : decodeCommand buf = some c) :
    codeCanonical c.code = true ∧ c.payload.length ≤ 240 ∧ 15 ≤ buf.length := by
  rw [decodeCommand_eq, Option.map_eq_some_iff] at h
  obtain ⟨len, hlen, rfl⟩ := h
  obtain ⟨hmin, -, rfl, -, -, -⟩ := frameLength_eq_some.mp hlen
  refine ⟨codeCanonical_codeFromBytes _ _, ?_, hmin⟩
  simp
  omega

/-- A command row is well-formed when its code is canonical and its payload fits a frame. -/
theorem commandInstr_wf {c : Command} (hc : codeCanonical c.code = true) (hp : c.payload.length ≤ 240) :
    (commandInstr c).wf = true := by
  have hfit : commandPayload c.payload = true := decide_eq_true hp
  unfold commandInstr
  cases hcode : c.code
  case unknown hi lo => exact Bool.and_eq_true_iff.mpr ⟨hcode ▸ hc, hfit⟩
  all_goals exact hfit

/-- A station's frame is a well-formed command row, of at least 15 bytes. -/
theorem stationCommand_some {buf : List Byte} {i : Instr} (h : stationCommand buf = some i) :
    i.wf = true ∧ 15 ≤ buf.length := by
  obtain ⟨c, hc, hi⟩ := Option.bind_eq_some_iff.mp h
  obtain ⟨hcode, hpay, hlen⟩ := decodeCommand_some hc
  split_ifs at hi
  cases hi
  exact ⟨commandInstr_wf hcode hpay, hlen⟩

/-- Of a plan that begins with the preamble, the decoder gives a well-formed operation and takes bytes. -/
theorem decodeWire_wf {buf : List Byte} (hpos : 0 < buf.length) :
    (decodeWire buf).1.wf = true ∧ (decodeWire buf).2.length < buf.length := by
  have hdrop : ∀ n, 0 < n → (buf.drop n).length < buf.length := fun n hn => by simp; omega
  by_cases hhead : 4 ≤ buf.length ∧ byteAt buf 1 = Config.hdr1 ∧ byteAt buf 3 = Config.hdr3
  · rw [decodeWire, if_pos hhead]
    cases hcmd : stationCommand (buf.take (byteAt buf 2).toNat) with
    | some i =>
      obtain ⟨hwf, hlen⟩ := stationCommand_some hcmd
      exact ⟨hwf, hdrop _ (by rw [List.length_take] at hlen; omega)⟩
    | none =>
      dsimp only
      split_ifs with hshort hcpuid husual
      · exact ⟨rfl, hpos⟩
      · exact ⟨rfl, hdrop _ (by simp [hcpuid, Config.cpuidLen])⟩
      · exact ⟨rfl, hdrop _ (by simp [husual, Config.rspOverhead])⟩
      · exact ⟨rfl, hdrop _ (by omega)⟩
  · rw [decodeWire, if_neg hhead]
    split_ifs
    · exact ⟨rfl, hpos⟩
    · exact ⟨rfl, hdrop _ (by decide)⟩

/-- Settles O58: an operation behind a selector is checked by the decoder, one of the spec's frames is well-formed by
what the frame's decoder finds. -/
theorem decodedOperationsAreWellFormed : Obligations.DecodedOperationsAreWellFormed := by
  intro l i rest h
  cases l with
  | nil => simp [decode] at h
  | cons b l =>
    simp only [decode] at h
    split_ifs at h with hpre hsel
    · have hwire := decodeWire_wf (buf := b :: l) (Nat.succ_pos _)
      rw [Except.ok.inj h] at hwire
      exact hwire
    · cases hread : decodeSelector b l with
      | none => simp [hread] at h
      | some x =>
        simp only [hread] at h
        split_ifs at h with hwf
        cases h
        exact ⟨hwf, Nat.lt_succ_of_le (decodeSelector_leaves l b _ hread)⟩

end Sys2Proof
end

section
/-! The frames of the encode-only formats (O18, O19), and the rows of the formats that are both encoded and decoded
(O25). -/
namespace Sys2Proof.Machine

/-- Settles O18: the encoder and the row of the format lay out the same bytes, sealed by their checksum. -/
theorem encodeCpuIDLaysOutTheFrame : Obligations.EncodeCpuIDLaysOutTheFrame := by
  intro r s
  refine ⟨checksum (header Config.cpuidLen ++ addrBytes r.dst ++ addrBytes r.src ++ zeros 5), checksum_toNat _, ?_⟩
  simp only [List.mem_cons, List.not_mem_nil, or_false, forall_eq_or_imp, forall_eq]
  exact ⟨rfl, rfl⟩

/-- Settles O19: the body is the parameter's, and neither operation reads a record. -/
theorem encodeLegacyCipherGivesTheCannedFrame : Obligations.EncodeLegacyCipherGivesTheCannedFrame :=
  ⟨legacyBody Config.params, checksum (legacyBody Config.params), rfl, by simp [legacyBody], checksum_toNat _,
    fun _ _ => ⟨rfl, rfl⟩⟩

/-- Settles O25: what is decoded of a frame encodes back to the same layout with the encoders' fixed bytes. -/
theorem formatRowsDecodeAndEncodeBack : Obligations.FormatRowsDecodeAndEncodeBack := by
  intro buf s
  refine ⟨rfl, rfl, fun len h => ?_, fun p len h => ?_⟩
  · obtain ⟨x1, x3, dst, src, hi, lo, pay, rest, rfl, rfl, hpay⟩ := exists_commandFrame h
    have h1 : (frameOf x1 x3 dst src (hi :: lo :: pay) ++ rest)[1]? = some x1 := rfl
    have h3 : (frameOf x1 x3 dst src (hi :: lo :: pay) ++ rest)[3]? = some x3 := rfl
    rw [decodeCommand_frameOf hpay, Option.bind_some, encodeCommand_eq_frameOf hpay, codeToBytes_codeFromBytes]
    refine ⟨_, rfl, ?_⟩
    rw [take_frameOf_append, eq_comm, frameOf_inj, h1, h3]
    simp
  · obtain ⟨x1, x3, dst, src, e, pay, rest, rfl, rfl, hpay⟩ := exists_usualFrame h
    have h1 : (frameOf x1 x3 dst src (e :: pay) ++ rest)[1]? = some x1 := rfl
    have h3 : (frameOf x1 x3 dst src (e :: pay) ++ rest)[3]? = some x3 := rfl
    have h12 : (frameOf x1 x3 dst src (e :: pay) ++ rest)[12]? = some e := rfl
    rw [decodeResponse_frameOf hpay]
    refine ⟨_, _, rfl, encodeUsual_eq_frameOf hpay, frameOf_length .., ?_⟩
    rw [take_frameOf_append, eq_comm, frameOf_inj, h1, h3, h12]
    simp [errorByte]

end Sys2Proof.Machine
end

section
/-! The checksum and the conversions of codes as operations (O9 to O15). -/
namespace Sys2Proof.Machine

/-- Settles O9: the operation gives back the checksum, and the 8-bit sum of the bytes is their sum modulo 256. -/
theorem checksumIsTheWrappedByteSum : Obligations.ChecksumIsTheWrappedByteSum :=
  fun b _ => ⟨checksum b, rfl, checksum_toNat b⟩

/-- Settles O10, pair by pair of the table, and for every other pair by `codeFromBytes_of_not_mem`. -/
theorem codeFromBytesReadsTheTable : Obligations.CodeFromBytesReadsTheTable := by
  intro hi lo s
  refine ⟨codeFromBytes hi lo, rfl, ?_, ?_, ?_, ?_, ?_, codeFromBytes_of_not_mem⟩
  all_goals
    rintro ⟨⟩
    simp [codeFromBytes_pairs]

theorem exec_codeCanonical (c : Code) (s : State) :
    exec (.codeCanonical c) s = .next { s with returned := .truth (codeCanonical c) } := rfl

/-- A code is canonical unless it is a catch-all that carries the bytes of a table code (R75). -/
theorem codeCanonical_iff (c : Code) :
    codeCanonical c = true ↔ ∀ hi lo, c = .unknown hi lo → (hi, lo) ∉ tableBytes := by
  cases c
  case unknown hi lo =>
    rw [codeCanonical_unknown_iff]
    refine ⟨fun h _ _ e => ?_, fun h => h hi lo rfl⟩
    obtain ⟨rfl, rfl⟩ := Code.unknown.inj e
    exact h
  all_goals exact iff_of_true rfl nofun

/-- Settles O11: the operation gives back `codeCanonical`, which is true of every code read from bytes. -/
theorem codeCanonicalExcludesTableBytes : Obligations.CodeCanonicalExcludesTableBytes :=
  ⟨fun c s => ⟨codeCanonical c, exec_codeCanonical c s, codeCanonical_iff c⟩,
    fun hi lo s => by rw [exec_codeCanonical, codeCanonical_codeFromBytes]⟩

/-- Settles O12, variant by variant. -/
theorem codeToBytesWritesTheTable : Obligations.CodeToBytesWritesTheTable :=
  fun _ => ⟨rfl, rfl, rfl, rfl, rfl, fun _ _ => rfl⟩

/-- Settles O13, variant by variant. -/
theorem codeValue16GivesTheTableOrTheSentinel : Obligations.CodeValue16GivesTheTableOrTheSentinel :=
  fun _ => ⟨rfl, rfl, rfl, rfl, rfl, fun _ _ => rfl⟩

/-- Settles O14, variant by variant. -/
theorem expectedResponseLenGivesTheTable : Obligations.ExpectedResponseLenGivesTheTable :=
  fun _ => ⟨rfl, rfl, rfl, rfl, rfl, fun _ _ => rfl⟩

/-- Settles O15: a code its own bytes give back is one read from bytes, so canonical; the converse is
`codeFromBytes_codeToBytes`. -/
theorem codeConversionsInvertOnCanonicalCodes : Obligations.CodeConversionsInvertOnCanonicalCodes :=
  ⟨fun hi lo => ⟨codeToBytes_codeFromBytes hi lo, codeCanonical_codeFromBytes hi lo⟩,
    fun _ => ⟨fun h => h ▸ codeCanonical_codeFromBytes _ _, codeFromBytes_codeToBytes⟩⟩

end Sys2Proof.Machine
end

section
/-! A whole transaction is the sequential procedure (O44): from each phase on, a run of the engine's steps ends as the rest
of R99's procedure does from the same link. -/
namespace Sys2Proof.Machine

-- The cases of the procedure's read and of its poll (R99).

section
variable {p : Params} {n k a d : Nat} {b : List Byte} {q : Response} {code : Code} {dst : Addr} {pay : List Byte}
  {s : State}

theorem readReply_of_none (hb : (linkRead n s).1 = none) : readReply p n s = (.err .ioError, (linkRead n s).2) := by
  simp [readReply, hb]

theorem readReply_of_short (hb : (linkRead n s).1 = some b) (hl : b.length < n) :
    readReply p n s = (.err (.frameError b.length), (linkRead n s).2) := by
  simp [readReply, hb, hl]

theorem readReply_of_noFrame (hb : (linkRead n s).1 = some b) (hl : n ≤ b.length) (hd : decodeResponse p b = none) :
    readReply p n s = (.err (.frameError b.length), (linkRead n s).2) := by
  simp [readReply, hb, Nat.not_lt.mpr hl, hd]

theorem readReply_of_frame (hb : (linkRead n s).1 = some b) (hl : n ≤ b.length) (hd : decodeResponse p b = some q) :
    readReply p n s = (.ok q, (linkRead n s).2) := by
  simp [readReply, hb, Nat.not_lt.mpr hl, hd]

theorem pollLoop_of_none (ha : (linkAvail (envTurn s)).1 = none) :
    pollLoop p n (k + 1) d s = (.err .ioError, (linkAvail (envTurn s)).2) := by
  simp [pollLoop, ha]

theorem pollLoop_of_enough (ha : (linkAvail (envTurn s)).1 = some a) (hn : n ≤ a) :
    pollLoop p n (k + 1) d s = readReply p n (envTurn (linkAvail (envTurn s)).2) := by
  simp [pollLoop, ha, hn]

theorem pollLoop_of_timeout (ha : (linkAvail (envTurn s)).1 = some a) (hn : a < n) (ht : p.tTimeout < d) :
    pollLoop p n (k + 1) d s = (.err .timeout, (linkAvail (envTurn s)).2) := by
  simp [pollLoop, ha, Nat.not_le.mpr hn, ht]

theorem pollLoop_of_wait (ha : (linkAvail (envTurn s)).1 = some a) (hn : a < n) (ht : d ≤ p.tTimeout) :
    pollLoop p n (k + 1) d s = pollLoop p n k (d + p.tPoll) (waitMs p.tPoll (linkAvail (envTurn s)).2) := by
  simp [pollLoop, ha, Nat.not_le.mpr hn, Nat.not_lt.mpr ht]

-- The steps where they are enabled (R100, R104, R105, R107).

theorem stepRequest_of_idle (hp : s.phase = .idle) (hl : pay.length ≤ 240) :
    stepRequest code dst pay s = .next (accept code dst pay s) := by
  simp [stepRequest, hp, Config.cmdDataMax, Nat.not_lt.mpr hl]

theorem stepWrite_of_phase (hp : s.phase = .write) : stepWrite p s =
    .next (if (linkWrite (txFrame s) s).1 then startPolling p (linkWrite (txFrame s) s).2
      else raise .ioError 0 (linkWrite (txFrame s) s).2) :=
  if_pos hp

theorem stepPoll_of_phase (hp : s.phase = .poll) (ht : s.pollTmr = p.tPoll) : stepPoll p s =
    .next (afterAvail p (linkAvail s).1 (linkAvail s).2) :=
  if_pos ⟨hp, ht⟩

theorem stepRead_of_phase (hp : s.phase = .read) : stepRead p s =
    .next (afterRead p (linkRead s.expLen.toNat s).1 (linkRead s.expLen.toNat s).2) :=
  if_pos hp

end

/-- A run of at most `m` steps from `s` reaches `DONE` with the result `x.1` in the result registers, the link, the time
and the environment's choices of `x.2`, and the plan `g`. -/
def EndsAs (p : Params) (m : Nat) (g : List Byte) (x : TxResult × State) (s : State) : Prop :=
  ∃ d, engineRun p m s = .next d ∧ d.phase = .done ∧ txResult d = some x.1 ∧ onto d x.2 = d ∧ d.agenda = g

section
variable {p : Params} {m k : Nat} {x : TxResult × State} {r l s t : State}

theorem EndsAs.of_done (hp : s.phase = .done) (hr : txResult s = some x.1) (hl : onto s x.2 = s) :
    EndsAs p m s.agenda x s :=
  ⟨s, engineRun_done hp, hp, hr, hl, rfl⟩

theorem EndsAs.of_run_eq {g : List Byte} (h : engineRun p k s = engineRun p m t) (ht : EndsAs p m g x t) :
    EndsAs p k g x s := by
  unfold EndsAs at ht ⊢
  rwa [h]

/-- A run ends as it does from where the machine's next step leads. -/
theorem EndsAs.of_advance {g : List Byte} (hp : s.phase ≠ .done) (h : advance p (envTurn s) = .next t)
    (ht : EndsAs p m g x t) : EndsAs p (m + 1) g x s :=
  .of_run_eq (by rw [engineRun_succ hp, h, andThen_next]) ht

/-- What a read does with the bytes it got is what the procedure does with them (R99, R107, R108). -/
theorem endsAs_afterRead :
    EndsAs p m r.agenda (readReply p r.expLen.toNat l)
      (afterRead p (linkRead r.expLen.toNat l).1 (onto r (linkRead r.expLen.toNat l).2)) := by
  obtain ⟨hb, a⟩ | ⟨b, hb, hl, a⟩ | ⟨b, hb, hl, hd, a⟩ | ⟨b, q, hb, hl, hd, a⟩ :=
    afterRead_cases p (linkRead r.expLen.toNat l).1 (onto r (linkRead r.expLen.toNat l).2) <;> rw [a]
  · rw [readReply_of_none hb]
    exact .of_done rfl rfl rfl
  · rw [readReply_of_short hb hl]
    exact .of_done rfl rfl rfl
  all_goals
    have hlen : b.length < 256 := (linkRead_some hb).1.trans_lt r.expLen.isLt
    rw [rxFrame_storeReceived _ hlen] at hd
  · rw [readReply_of_noFrame hb hl hd]
    exact .of_done rfl (by simp [txResult, storeReceived, Nat.mod_eq_of_lt hlen]) rfl
  · rw [readReply_of_frame hb hl hd]
    exact .of_done rfl rfl rfl

/-- In `READ`: the procedure's read. -/
theorem endsAs_read (hp : r.phase = .read) :
    EndsAs p (m + 1) r.agenda (readReply p r.expLen.toNat (envTurn l)) (onto r l) := by
  have hp' : (envTurn (onto r l)).phase = .read := hp
  have hread := (advance_read hp').trans (stepRead_of_phase (p := p) hp')
  rw [envTurn_onto, linkRead_onto_fst, linkRead_onto_snd] at hread
  exact .of_advance (by simp [onto, hp]) hread endsAs_afterRead

/-- In `POLL` with a poll due: the procedure's poll. Where neither the reply is there nor the time is over, the rest is the
run from the wait that begins. -/
theorem endsAs_poll_due (hp : r.phase = .poll) (ht : r.pollTmr = p.tPoll)
    (hwait : r.elapsed ≤ p.tTimeout →
      EndsAs p (m + 1) r.agenda
        (pollLoop p r.expLen.toNat k (r.elapsed + p.tPoll) (waitMs p.tPoll (linkAvail (envTurn l)).2))
        (onto { r with pollTmr := 0 } (linkAvail (envTurn l)).2)) :
    EndsAs p (m + 2) r.agenda (pollLoop p r.expLen.toNat (k + 1) r.elapsed l) (onto r l) := by
  have hp' : (envTurn (onto r l)).phase = .poll := hp
  have hpoll := (advance_poll hp' ht).trans (stepPoll_of_phase (p := p) hp' ht)
  refine .of_advance (by simp [onto, hp]) hpoll ?_
  rw [envTurn_onto, linkAvail_onto_fst, linkAvail_onto_snd]
  obtain ⟨ha, e⟩ | ⟨a, ha, hn, e⟩ | ⟨a, ha, hn, hto, e⟩ | ⟨a, ha, hn, hto, e⟩ :=
    afterAvail_cases p (linkAvail (envTurn l)).1 (onto r (linkAvail (envTurn l)).2) <;> rw [e]
  · rw [pollLoop_of_none ha]
    exact .of_done rfl rfl rfl
  · rw [pollLoop_of_enough (n := r.expLen.toNat) ha hn]
    exact endsAs_read (r := { r with phase := .read }) rfl
  · rw [pollLoop_of_timeout (n := r.expLen.toNat) (d := r.elapsed) ha hn hto]
    exact .of_done rfl rfl rfl
  · rw [pollLoop_of_wait (n := r.expLen.toNat) (d := r.elapsed) ha hn hto]
    exact hwait hto

/-- In `POLL` with a poll due, and enough polls to come to pass the budget: the procedure's poll loop (R106). -/
theorem endsAs_poll (hp : r.phase = .poll) (ht : r.pollTmr = p.tPoll) (hk : p.tTimeout < r.elapsed + k * p.tPoll) :
    EndsAs p (p.tPoll * k + k + 2) r.agenda (pollLoop p r.expLen.toNat (k + 1) r.elapsed l) (onto r l) := by
  induction k generalizing r l with
  | zero => exact endsAs_poll_due hp ht fun h => by omega
  | succ k ih =>
    refine endsAs_poll_due hp ht fun _ => ?_
    have hsteps : p.tPoll * (k + 1) + (k + 1) + 1 = p.tPoll + (p.tPoll * k + k + 2) := by rw [Nat.mul_succ]; omega
    have hrest := ih (r := { r with pollTmr := p.tPoll, elapsed := r.elapsed + p.tPoll })
      (l := waitMs p.tPoll (linkAvail (envTurn l)).2) hp rfl (by rw [Nat.succ_mul] at hk; simp only; omega)
    exact .of_run_eq (hsteps ▸ engineRun_poll_onto _ _ _ hp) hrest

/-- The steps a transaction takes at most from the write on: the polls of `pollBound`, the milliseconds between them, the
write and the read. -/
def writeBound (p : Params) : Nat := p.tPoll * (p.tTimeout / p.tPoll + 1) + pollBound p + 2

/-- In `WRITE`: the procedure's write and what follows it. -/
theorem endsAs_write (hpos : 0 < p.tPoll) (hp : r.phase = .write) :
    EndsAs p (writeBound p) r.agenda (writeAndPoll p r.expLen.toNat (txFrame r) (envTurn l)) (onto r l) := by
  have hp' : (envTurn (onto r l)).phase = .write := hp
  have hwrite := (advance_write hp').trans (stepWrite_of_phase (p := p) hp')
  refine .of_advance (by simp [onto, hp]) hwrite ?_
  rw [envTurn_onto, show txFrame (onto r (envTurn l)) = txFrame r from rfl, linkWrite_onto_fst, linkWrite_onto_snd,
    writeAndPoll]
  split
  · refine endsAs_poll (r := startPolling p r) rfl rfl ?_
    simpa using budget_exceeded hpos
  · exact .of_done rfl rfl rfl

/-- In `SETTLE` with the wait over: the command's frame is built, and the procedure writes it. -/
theorem endsAs_settleDone {f : List Byte} (hpos : 0 < p.tPoll) (hp : r.phase = .settle) (ht : r.tmr = p.tSettle)
    (hf : buildCommand r = some f) (hl : f.length < 256) :
    EndsAs p (writeBound p + 1) r.agenda (writeAndPoll p r.expLen.toNat f (envTurn (envTurn l))) (onto r l) := by
  have hp' : (envTurn (onto r l)).phase = .settle := hp
  have hdone := (advance_settle hp' ht).trans (stepSettleDone_of_frame hp' ht hf)
  refine .of_advance (by simp [onto, hp]) hdone ?_
  have hwrite := endsAs_write (r := loadFrame f r) (l := envTurn l) hpos rfl
  rwa [txFrame_loadFrame r hl] at hwrite

/-- The settle wait, with the registers and the link apart. -/
theorem engineRun_settle_onto (hp : r.phase = .settle) (ht : r.tmr = 0) : engineRun p (p.tSettle + m) (onto r l) =
    engineRun p m (onto { r with tmr := p.tSettle } (waitMs p.tSettle l)) := by
  rw [engineRun_settle _ _ (onto r l) hp (by simp [onto, ht]), waitMs_onto]
  simp [onto, ht]

/-- In `SETTLE` from acceptance on: the settle wait first. -/
theorem endsAs_settle {f : List Byte} (hpos : 0 < p.tPoll) (hp : r.phase = .settle) (ht : r.tmr = 0)
    (hf : buildCommand r = some f) (hl : f.length < 256) :
    EndsAs p (stepBound p) r.agenda
      (writeAndPoll p r.expLen.toNat f (envTurn (envTurn (waitMs p.tSettle l)))) (onto r l) := by
  have hsteps : stepBound p = p.tSettle + (writeBound p + 1) := by simp only [stepBound, writeBound]; omega
  have hdone := endsAs_settleDone (r := { r with tmr := p.tSettle }) (l := waitMs p.tSettle l) hpos hp rfl hf hl
  exact .of_run_eq (hsteps ▸ engineRun_settle_onto hp ht) hdone

end

section
variable {p : Params} {code : Code} {dst : Addr} {pay : List Byte} {s : State}

/-- The command built from an accepted request is that of its operands (R100, R103). -/
theorem requestedCommand_accept (hc : s.connOpen = true) (hl : pay.length ≤ 240) :
    requestedCommand (accept code dst pay s) = ⟨dst, Config.stationAddr, code, pay⟩ := by
  have hlen : pay.length % 256 = pay.length := Nat.mod_eq_of_lt (by omega)
  simp [accept, hc, requestedCommand, hlen, payloadBuffer_take]

theorem accept_expLen_toNat (hc : s.connOpen = true) :
    (accept code dst pay s).expLen.toNat = expectedResponseLen code := by
  have hlt : expectedResponseLen code < 256 := (expectedResponseLen_le code).trans_lt (by decide)
  simp [accept, hc, Nat.mod_eq_of_lt hlt]

@[simp] theorem accept_agenda : (accept code dst pay s).agenda = s.agenda := by
  unfold accept; split <;> rfl

/-- Acceptance flushes the link and is otherwise a matter of the registers (R100). -/
theorem accept_eq_onto (hc : s.connOpen = true) :
    accept code dst pay s = onto (accept code dst pay s) (linkFlush s) := by
  simp [accept, hc, onto, linkFlush]

/-- From acceptance on, a run of a transaction ends as the whole procedure does (R99). -/
theorem endsAs_accept (hpos : 0 < p.tPoll) (hl : pay.length ≤ 240) :
    EndsAs p (stepBound p) s.agenda (sequentialExecute p code dst pay s) (accept code dst pay s) := by
  cases hc : s.connOpen with
  | false =>
    rw [sequentialExecute, accept, if_neg (by simp [hc]), if_neg (by simp [hc])]
    exact .of_done rfl rfl rfl
  | true =>
    obtain ⟨f, hf, hlen⟩ := encodeCommand_some (c := ⟨dst, Config.stationAddr, code, pay⟩) hl
    have hbuild : buildCommand (accept code dst pay s) = some f := by
      rw [buildCommand, requestedCommand_accept hc hl, hf]
    have hsettle := endsAs_settle (r := accept code dst pay s) (l := linkFlush s) hpos (by simp [accept_phase, hc])
      (by simp [accept, hc]) hbuild (by simp at hlen; omega)
    rw [← accept_eq_onto hc, accept_expLen_toNat hc, accept_agenda] at hsettle
    rwa [sequentialExecute, if_pos hc, hf, Option.getD_some]

/-- A transaction gives its caller the result of the procedure, holds it in the result registers, and leaves the link, the
time and the environment's choices as the procedure does. -/
theorem call_eq_sequentialExecute (hpos : 0 < p.tPoll) (hp : s.phase = .idle) (hl : pay.length ≤ 240) :
    ∃ t, call p code dst pay s = .next ((sequentialExecute p code dst pay s).1, t) ∧
      txResult t = some (sequentialExecute p code dst pay s).1 ∧ onto t (sequentialExecute p code dst pay s).2 = t ∧
      t.agenda = s.agenda := by
  obtain ⟨d, hrun, hd, hr, hlink, ha⟩ := endsAs_accept (code := code) (dst := dst) (s := s) hpos hl
  refine ⟨acknowledge d, ?_, hr, congrArg acknowledge hlink, ha⟩
  simp [call, stepRequest_of_idle hp hl, hrun, finish, hd, hr]

end

/-- Settles O44: each row is the transaction of `call_eq_sequentialExecute`, its result given back. -/
theorem transactionsAreTheSequentialProcedure : Obligations.TransactionsAreTheSequentialProcedure := by
  intro i code dst pay s hi hp hl
  obtain ⟨t, hcall, hr, hlink, ha⟩ := call_eq_sequentialExecute (p := Config.params) (code := code) (dst := dst)
    (by decide) hp hl
  refine ⟨giveBack (.result (sequentialExecute Config.params code dst pay s).1) t, ?_, rfl, hr, ?_, ?_, ?_, ?_, ?_, ?_,
    call_idle hcall, (steady_connOpen _ s.connOpen).call rfl hcall, ha⟩
  · rw [exec_transaction hi, execute, hcall, andThen_next]
  · exact (congrArg State.rxq hlink).symm
  · exact (congrArg State.txq hlink).symm
  · exact (congrArg State.now hlink).symm
  · exact (congrArg State.draws hlink).symm
  · exact (congrArg State.turns hlink).symm
  · exact (congrArg State.freeCount hlink).symm

end Sys2Proof.Machine
end

section
/-! The encoders' frames (O16, O17), what every one of them has in common (O21), and the encoder a Response's shape
selects (O20). -/
namespace Sys2Proof.Machine

-- What the encoders that can refuse an operand answer.

theorem exec_encodeCommand_of_none {c : Command} (h : encodeCommand c = none) (s : State) :
    exec (.encodeCommand c) s = .refused .commandTooLong := by
  simp [exec, execEncodeCommand, giveFrame, h]

/-- `EncodeUsual` refuses exactly the payloads above 241 bytes (R88). -/
theorem encodeUsual_none {r : Response} : encodeUsual r = none ↔ 241 < r.payload.length := by
  simp [encodeUsual, Config.rspDataMax]

theorem exec_encodeUsual_of_none {r : Response} (h : encodeUsual r = none) (s : State) :
    exec (.encodeUsual r) s = .refused .responseTooLong := by
  simp [exec, execEncodeUsual, giveFrame, h]

theorem usualFrame_of_usual {r : Response} (h : r.shape = .usual) (f : List Byte) : usualFrame r f = f := if_pos h

-- The bytes of a frame (R56, R57).

/-- The bytes of a frame of length `n`, the last the checksum of the others (R55 to R57, R61, R65). -/
theorem frameOf_eq_bytes {x1 x3 : Byte} {dst src : Addr} {t : List Byte} {n : Nat} (hn : 13 + t.length = n) :
    frameOf x1 x3 dst src t =
      [0x02, x1, BitVec.ofNat 8 n, x3, dst.b0, dst.b1, dst.b2, dst.b3, src.b0, src.b1, src.b2, src.b3] ++ t ++
        [checksum ([0x02, x1, BitVec.ofNat 8 n, x3, dst.b0, dst.b1, dst.b2, dst.b3, src.b0, src.b1, src.b2, src.b3] ++
          t)] := by
  subst hn; rfl

/-- Settles O16: the frame's bytes are `frameOf_eq_bytes`, the code's two before the payload. -/
theorem encodeCommandLaysOutTheFrame : Obligations.EncodeCommandLaysOutTheFrame := by
  intro c s
  refine ⟨fun h => ⟨_, ?_, checksum_toNat _⟩, fun h => exec_encodeCommand_of_none (encodeCommand_none.mpr h) s⟩
  have hlen : 13 + ((codeToBytes c.code).1 :: (codeToBytes c.code).2 :: c.payload).length = 15 + c.payload.length := by
    simp only [List.length_cons]; omega
  rw [exec_encodeCommand_of_some (encodeCommand_eq_frameOf h), frameOf_eq_bytes hlen]
  rfl

/-- Settles O17: the frame's bytes are `frameOf_eq_bytes`, the error byte before the payload. -/
theorem encodeUsualLaysOutTheFrame : Obligations.EncodeUsualLaysOutTheFrame := by
  intro r s hs
  refine ⟨fun h => ⟨_, ?_, checksum_toNat _⟩, fun h => exec_encodeUsual_of_none (encodeUsual_none.mpr h) s⟩
  have hlen : 13 + (errorByte r.error :: r.payload).length = 14 + r.payload.length := by
    simp only [List.length_cons]; omega
  rw [exec_encodeUsual_of_some (encodeUsual_eq_frameOf h), usualFrame_of_usual hs, frameOf_eq_bytes hlen]
  rfl

-- What every encoder's frame has in common (R91).

/-- A frame with the encoders' bytes 1 and 3, whose length byte 2 can hold. -/
def IsHeadedFrame (f : List Byte) : Prop :=
  ∃ dst src t, t.length ≤ 242 ∧ f = frameOf 0x01 0x00 dst src t

theorem isHeadedFrame_cpuidFrame (dst src : Addr) : IsHeadedFrame (cpuidFrame dst src) :=
  ⟨dst, src, zeros 5, by decide, rfl⟩

theorem isHeadedFrame_of_encodeCommand {c : Command} {f : List Byte} (h : encodeCommand c = some f) :
    IsHeadedFrame f := by
  have hlen : c.payload.length ≤ 240 := not_lt.mp fun hlt => by simp [encodeCommand_none.mpr hlt] at h
  rw [encodeCommand_eq_frameOf hlen, Option.some_inj] at h
  exact ⟨_, _, _, by simp only [List.length_cons]; omega, h.symm⟩

theorem isHeadedFrame_of_encodeUsual {r : Response} {f : List Byte} (h : encodeUsual r = some f) : IsHeadedFrame f := by
  have hlen : r.payload.length ≤ 241 := not_lt.mp fun hlt => by simp [encodeUsual_none.mpr hlt] at h
  rw [encodeUsual_eq_frameOf hlen, Option.some_inj] at h
  exact ⟨_, _, _, by simp only [List.length_cons]; omega, h.symm⟩

-- `EncodeResponse` by the shape (R87).

theorem encodeResponse_of_usual {r : Response} (h : r.shape = .usual) (p : Params) :
    encodeResponse p r = encodeUsual r := by
  simp [encodeResponse, h]

theorem encodeResponse_of_cpuID {r : Response} (h : r.shape = .cpuID) (p : Params) :
    encodeResponse p r = some (encodeCpuID r) := by
  simp [encodeResponse, h]

theorem encodeResponse_of_legacyCipher {r : Response} (h : r.shape = .legacyCipher) (p : Params) :
    encodeResponse p r = some (encodeLegacyCipher p) := by
  simp [encodeResponse, h]

/-- Only the canned frame may lack the common header (R91 (c)). -/
theorem headed_or_legacy_of_encodeResponse {p : Params} {r : Response} {f : List Byte}
    (h : encodeResponse p r = some f) : IsHeadedFrame f ∨ (r.shape = .legacyCipher ∧ f = encodeLegacyCipher p) := by
  cases hs : r.shape with
  | usual => exact .inl (isHeadedFrame_of_encodeUsual (encodeResponse_of_usual hs p ▸ h))
  | cpuID =>
    rw [encodeResponse_of_cpuID hs, Option.some_inj] at h
    exact .inl (h ▸ isHeadedFrame_cpuidFrame r.dst r.src)
  | legacyCipher =>
    rw [encodeResponse_of_legacyCipher hs, Option.some_inj] at h
    exact .inr ⟨rfl, h.symm⟩

/-- Bytes 1, 2 and 3 of a headed frame (R91 (c)). -/
theorem IsHeadedFrame.header_bytes {f : List Byte} (h : IsHeadedFrame f) :
    f[1]? = some 0x01 ∧ f[3]? = some 0x00 ∧ ∃ l : Byte, f[2]? = some l ∧ l.toNat = f.length := by
  obtain ⟨dst, src, t, ht, rfl⟩ := h
  have hdecl := byteAt_two_frameOf (x1 := 0x01) (x3 := 0x00) (dst := dst) (src := src) ht []
  exact ⟨rfl, rfl, _, rfl, hdecl.trans (frameOf_length ..).symm⟩

/-- The frame begins with the preamble and is sealed. -/
theorem IsHeadedFrame.exists_sealFrame {f : List Byte} (h : IsHeadedFrame f) :
    ∃ b, f = sealFrame (Config.preamble :: b) := by
  obtain ⟨dst, src, t, -, rfl⟩ := h
  exact ⟨_, rfl⟩

/-- A sealed frame's last byte is the sum of all before it (R91 (b)). -/
theorem sealFrame_last (b : List Byte) :
    ∃ c : Byte, (sealFrame b)[(sealFrame b).length - 1]? = some c ∧
      c.toNat = byteSum ((sealFrame b).take ((sealFrame b).length - 1)) % 256 := by
  have hbody : (sealFrame b).take ((sealFrame b).length - 1) = b := by simp [sealFrame]
  exact ⟨checksum b, by simp [sealFrame], by rw [hbody, checksum_toNat]⟩

/-- Settles O21: every encoder seals a body that begins with the preamble, and all but the legacy one give a headed
frame. -/
theorem everyEncodedFrameIsSealed : Obligations.EveryEncodedFrameIsSealed := by
  intro f hf
  have hseal : ∃ b, f = sealFrame (Config.preamble :: b) := by
    obtain ⟨c, h⟩ | ⟨p, r, h⟩ | ⟨dst, src, rfl⟩ := hf
    · exact (isHeadedFrame_of_encodeCommand h).exists_sealFrame
    · obtain h | ⟨-, rfl⟩ := headed_or_legacy_of_encodeResponse h
      · exact h.exists_sealFrame
      · exact ⟨_, rfl⟩
    · exact (isHeadedFrame_cpuidFrame dst src).exists_sealFrame
  have hheaded : ((∃ c, encodeCommand c = some f) ∨ ∃ p r, r.shape ≠ .legacyCipher ∧ encodeResponse p r = some f) →
      IsHeadedFrame f := by
    rintro (⟨c, h⟩ | ⟨p, r, hr, h⟩)
    · exact isHeadedFrame_of_encodeCommand h
    · exact (headed_or_legacy_of_encodeResponse h).resolve_right fun hl => hr hl.1
  refine ⟨?_, ?_, fun h => (hheaded h).header_bytes⟩
  · obtain ⟨b, rfl⟩ := hseal
    rfl
  · obtain ⟨b, rfl⟩ := hseal
    exact sealFrame_last _

-- The dispatch as an operation (R87).

theorem exec_encodeResponse_of_usual {r : Response} (h : r.shape = .usual) (s : State) :
    exec (.encodeResponse r) s = exec (.encodeUsual r) s := by
  have hid : usualFrame r = id := funext (usualFrame_of_usual h)
  simp [exec, execEncodeResponse, execEncodeUsual, encodeResponse_of_usual h, hid]

theorem exec_encodeResponse_next {r : Response} (h : r.shape = .usual → r.payload.length ≤ 241) (s : State) :
    ∃ t, exec (.encodeResponse r) s = .next t := by
  obtain ⟨f, hf⟩ := encodeResponse_some h
  exact ⟨_, exec_encodeResponse_of_some hf s⟩

/-- Settles O20, shape by shape. -/
theorem encodeResponseDispatchesOnTheShape : Obligations.EncodeResponseDispatchesOnTheShape := by
  refine fun r s => ⟨fun h => ⟨?_, fun hl => ?_⟩, fun h => ⟨?_, ?_⟩, fun h => ⟨?_, ?_⟩⟩
  · exact exec_encodeResponse_of_usual h s
  · exact exec_encodeResponse_next (fun _ => hl) s
  · exact exec_encodeResponse_of_some (encodeResponse_of_cpuID h _) s
  · exact exec_encodeResponse_next (fun hu => by simp [h] at hu) s
  · exact exec_encodeResponse_of_some (encodeResponse_of_legacyCipher h _) s
  · exact exec_encodeResponse_next (fun hu => by simp [h] at hu) s

end Sys2Proof.Machine
end

section
/-! The decoders on an arbitrary buffer: what they take and its fields (O22, O23), the reason when they take nothing
(O24), and the two properties of the checksum: one changed byte is noticed (O28), exchanged addresses are not (O29). The
round trips (O26, O27) read an encoder's frame back. -/
namespace Sys2Proof.Machine

-- A decoder finds a frame, or there is none (R92, R93).

theorem frameLength_eq_none_iff {min : Nat} {buf : List Byte} (hmin : 3 ≤ min) :
    frameLength min buf = none ↔ ∀ len, ¬ frameAt min buf len := by
  simp only [Option.eq_none_iff_forall_ne_some, ne_eq, frameLength_eq_some_iff_frameAt hmin]

theorem decodeCommand_eq_none_iff {buf : List Byte} : decodeCommand buf = none ↔ ∀ len, ¬ frameAt 15 buf len := by
  rw [decodeCommand_eq, Option.map_eq_none_iff, frameLength_eq_none_iff (by decide)]

theorem decodeResponse_eq_none_iff {p : Params} {buf : List Byte} :
    decodeResponse p buf = none ↔ ∀ len, ¬ frameAt 14 buf len := by
  rw [decodeResponse_eq, Option.map_eq_none_iff, frameLength_eq_none_iff (by decide)]

theorem decodeCommand_ne_none_iff {buf : List Byte} : decodeCommand buf ≠ none ↔ ∃ len, frameAt 15 buf len := by
  rw [Ne, decodeCommand_eq_none_iff, not_forall_not]

theorem decodeResponse_ne_none_iff {p : Params} {buf : List Byte} :
    decodeResponse p buf ≠ none ↔ ∃ len, frameAt 14 buf len := by
  rw [Ne, decodeResponse_eq_none_iff, not_forall_not]

-- The fields at their offsets in a frame (R61).

theorem dst_slice_frameOf (x1 x3 : Byte) (dst src : Addr) (t rest : List Byte) :
    ((frameOf x1 x3 dst src t ++ rest).take 8).drop 4 = addrBytes dst := rfl

theorem src_slice_frameOf (x1 x3 : Byte) (dst src : Addr) (t rest : List Byte) :
    ((frameOf x1 x3 dst src t ++ rest).take 12).drop 8 = addrBytes src := rfl

/-- Settles O22: a buffer that is taken begins with a frame of the layout, whose fields `DecodeCommand` gives back. -/
theorem decodeCommandTakesTheFrame : Obligations.DecodeCommandTakesTheFrame := by
  refine fun buf s => ⟨decodeCommand buf, rfl, decodeCommand_eq_none_iff.mpr, fun len h => ?_⟩
  obtain ⟨x1, x3, dst, src, hi, lo, pay, rest, rfl, rfl, hpay⟩ := exists_commandFrame h
  refine ⟨_, decodeCommand_frameOf hpay .., (dst_slice_frameOf ..).symm, (src_slice_frameOf ..).symm,
    ⟨hi, lo, rfl, rfl, rfl⟩, (slice_frameOf_append x1 x3 dst src (hi :: lo :: pay) rest 2).symm, ?_⟩
  simp only [List.length_cons]
  omega

/-- The flag by the policy: what byte 12 holds counts under `Faithful` alone (R63, R93). -/
theorem errorFlag_eq_true_iff {p : Params} {e : Byte} :
    errorFlag p e = true ↔ e ≠ 0x00 ∧ p.errFlagPolicy = .faithful := by
  simp [errorFlag]

/-- Settles O23: as O22, the error flag by `errorFlag_eq_true_iff`. -/
theorem decodeResponseTakesTheFrame : Obligations.DecodeResponseTakesTheFrame := by
  refine fun p buf s => ⟨decodeResponse p buf, rfl, rfl, decodeResponse_eq_none_iff.mpr, fun len h => ?_⟩
  obtain ⟨x1, x3, dst, src, e, pay, rest, rfl, rfl, hpay⟩ := exists_usualFrame h
  refine ⟨_, decodeResponse_frameOf hpay .., (dst_slice_frameOf ..).symm, (src_slice_frameOf ..).symm, rfl,
    ⟨e, rfl, fun hp => ?_, fun hp => ?_⟩, (slice_frameOf_append x1 x3 dst src (e :: pay) rest 1).symm, ?_⟩
  · simp [errorFlag, hp]
  · simp [errorFlag_eq_true_iff, hp]
  · simp only [List.length_cons]
    omega

-- The reason (R94).

/-- The check `r` names is the first of the table that fails (R94). -/
def FailsFirst (min : Nat) (buf : List Byte) : Reason → Prop
  | .undersized => buf.length < min
  | .badPreamble => min ≤ buf.length ∧ buf[0]? ≠ some 0x02
  | .badLength => min ≤ buf.length ∧ buf[0]? = some 0x02 ∧ ∃ l : Byte, buf[2]? = some l ∧ l.toNat < min
  | .truncated => min ≤ buf.length ∧ buf[0]? = some 0x02 ∧
      ∃ l : Byte, buf[2]? = some l ∧ min ≤ l.toNat ∧ buf.length < l.toNat
  | .badChecksum => min ≤ buf.length ∧ buf[0]? = some 0x02 ∧
      ∃ l c : Byte, buf[2]? = some l ∧ min ≤ l.toNat ∧ l.toNat ≤ buf.length ∧
        buf[l.toNat - 1]? = some c ∧ c.toNat ≠ byteSum (buf.take (l.toNat - 1)) % 256

theorem three_le_kindMin (kind : FrameKind) : 3 ≤ kindMin kind := by cases kind <;> decide

/-- A byte is the checksum of a string exactly when it is the sum of its bytes modulo 256 (R73). -/
theorem checksum_eq_iff_toNat {b : List Byte} {c : Byte} : checksum b = c ↔ c.toNat = byteSum b % 256 := by
  rw [← checksum_toNat, BitVec.toNat_inj, eq_comm]

theorem byteAt_of_getElem? {b : List Byte} {i : Nat} {x : Byte} (h : b[i]? = some x) : byteAt b i = x := by
  simp [byteAt, h]

/-- The check `DecodeReason` names fails, and those before it hold. -/
theorem failsFirst_of_decodeReason {kind : FrameKind} {buf : List Byte} {r : Reason}
    (h : decodeReason kind buf = some r) : FailsFirst (kindMin kind) buf r := by
  have hmin := three_le_kindMin kind
  unfold decodeReason at h
  split_ifs at h with hlen hpre hbad htrunc hsum
  all_goals cases h
  · exact hlen
  all_goals
    have hbuf := not_lt.mp hlen
    have hget0 := getElem?_eq_some_iff_byteAt (b := buf) (i := 0) (by omega) 0x02
    have hget2 := getElem?_byteAt (b := buf) (i := 2) (by omega)
  · exact ⟨hbuf, hget0.not.mpr hpre⟩
  all_goals have hpre' := hget0.mpr (not_not.mp hpre)
  · exact ⟨hbuf, hpre', _, hget2, hbad⟩
  · exact ⟨hbuf, hpre', _, hget2, not_lt.mp hbad, htrunc⟩
  · exact ⟨hbuf, hpre', _, _, hget2, not_lt.mp hbad, not_lt.mp htrunc, getElem?_byteAt (by omega),
      checksum_eq_iff_toNat.not.mp hsum⟩

/-- The first check that fails is the one `DecodeReason` names. -/
theorem decodeReason_of_failsFirst {kind : FrameKind} {buf : List Byte} {r : Reason}
    (h : FailsFirst (kindMin kind) buf r) : decodeReason kind buf = some r := by
  cases r with
  | undersized => exact if_pos h
  | badPreamble =>
    obtain ⟨hlen, hpre⟩ := h
    have hmin := three_le_kindMin kind
    have hpre' : byteAt buf 0 ≠ Config.preamble := (getElem?_eq_some_iff_byteAt (by omega) _).not.mp hpre
    rw [decodeReason, if_neg hlen.not_gt, if_pos hpre']
  | badLength =>
    obtain ⟨hlen, hpre, l, hl, hbad⟩ := h
    simp [decodeReason, hlen.not_gt, byteAt_of_getElem? hpre, Config.preamble, byteAt_of_getElem? hl, hbad]
  | truncated =>
    obtain ⟨hlen, hpre, l, hl, hdecl, htrunc⟩ := h
    simp [decodeReason, hlen.not_gt, byteAt_of_getElem? hpre, Config.preamble, byteAt_of_getElem? hl, hdecl.not_gt,
      htrunc]
  | badChecksum =>
    obtain ⟨hlen, hpre, l, c, hl, hdecl, hfits, hc, hsum⟩ := h
    simp [decodeReason, hlen.not_gt, byteAt_of_getElem? hpre, Config.preamble, byteAt_of_getElem? hl, hdecl.not_gt,
      hfits.not_gt, byteAt_of_getElem? hc, checksum_eq_iff_toNat, hsum]

theorem decodeReason_eq_some_iff {kind : FrameKind} {buf : List Byte} {r : Reason} :
    decodeReason kind buf = some r ↔ FailsFirst (kindMin kind) buf r :=
  ⟨failsFirst_of_decodeReason, decodeReason_of_failsFirst⟩

/-- `DecodeReason` makes the five checks of the decoders (R94). -/
theorem decodeReason_eq_none_iff {kind : FrameKind} {buf : List Byte} :
    decodeReason kind buf = none ↔ ∃ len, frameAt (kindMin kind) buf len := by
  have hchecks : decodeReason kind buf = none ↔ frameLength (kindMin kind) buf ≠ none := by
    unfold decodeReason frameLength
    split_ifs <;> simp
  rw [hchecks, Ne, frameLength_eq_none_iff (three_le_kindMin kind), not_forall_not]

/-- Settles O24: each reason by `decodeReason_eq_some_iff`, and none by `decodeReason_eq_none_iff`. -/
theorem decodeReasonNamesTheFirstFailure : Obligations.DecodeReasonNamesTheFirstFailure := by
  refine fun kind buf s => ⟨decodeReason kind buf, rfl, decodeReason_eq_some_iff, decodeReason_eq_some_iff,
    decodeReason_eq_some_iff, decodeReason_eq_some_iff, decodeReason_eq_some_iff, decodeReason_eq_none_iff, ?_, ?_⟩
  · rintro rfl
    exact decodeReason_eq_none_iff.trans decodeCommand_ne_none_iff.symm
  · rintro rfl p
    exact decodeReason_eq_none_iff.trans decodeResponse_ne_none_iff.symm

-- An encoder's frame read back (R95).

/-- Settles O26: the encoder's frame decodes to its fields, and a canonical code is read back from its bytes. -/
theorem commandRoundTrip : Obligations.CommandRoundTrip := by
  intro c h
  have hdec := decodeCommand_frameOf h 0x01 0x00 c.dst c.src (codeToBytes c.code).1 (codeToBytes c.code).2 []
  rw [List.append_nil] at hdec
  refine ⟨_, encodeCommand_eq_frameOf h, _, hdec, rfl, rfl, rfl, codeToBytes_codeFromBytes _ _, fun hc => ?_⟩
  rw [codeFromBytes_codeToBytes hc]

/-- The flag an encoder writes is read back under `Faithful`, and as `false` under `AlwaysFalse` (R63). -/
theorem errorFlag_errorByte (p : Params) (e : Bool) :
    errorFlag p (errorByte e) = (e && decide (p.errFlagPolicy = .faithful)) := by
  cases e with
  | false => rfl
  | true => exact Bool.eq_iff_iff.mpr (by simp [errorFlag_eq_true_iff, errorByte])

/-- Settles O27: the encoder's frame decodes to its fields, the flag by `errorFlag_errorByte`. -/
theorem responseRoundTrip : Obligations.ResponseRoundTrip := by
  intro p r hs h
  have hdec := decodeResponse_frameOf h p 0x01 0x00 r.dst r.src (errorByte r.error) []
  rw [List.append_nil, errorFlag_errorByte, ← hs] at hdec
  exact ⟨_, encodeUsual_eq_frameOf h, hdec⟩

-- One changed byte (R96).

theorem byteAt_set_of_ne {b : List Byte} {i k : Nat} (h : k ≠ i) (x : Byte) : byteAt (b.set k x) i = byteAt b i := by
  simp [byteAt, List.getElem?_set_ne h]

theorem byteAt_take {b : List Byte} {k n : Nat} (h : k < n) : byteAt (b.take n) k = byteAt b k := by
  simp [byteAt, h]

/-- Changing a byte moves the checksum by the difference. -/
theorem checksum_set {b : List Byte} {k : Nat} (h : k < b.length) (x : Byte) :
    checksum (b.set k x) + byteAt b k = checksum b + x := by
  have hsplit : b = b.take k ++ byteAt b k :: b.drop (k + 1) := by
    rw [byteAt, List.getD_eq_getElem _ _ h, ← List.drop_eq_getElem_cons h, List.take_append_drop]
  have hsum := congrArg checksum hsplit
  rw [List.set_eq_take_append_cons_drop, if_pos h, hsum]
  simp only [checksum_append, checksum_cons]
  ac_rfl

/-- With a changed byte before the checksum, other than the length byte, a buffer of one frame is no frame. -/
theorem frameLength_set_eq_none {min k : Nat} {buf : List Byte} {x : Byte} (h : frameLength min buf = some buf.length)
    (hk : k + 1 < buf.length) (hk2 : k ≠ 2) (hx : byteAt buf k ≠ x) : frameLength min (buf.set k x) = none := by
  rw [Option.eq_none_iff_forall_ne_some]
  intro len hset
  obtain ⟨-, -, hdecl, -, -, hsum⟩ := frameLength_eq_some.mp h
  obtain ⟨-, -, hdecl', -, -, hsum'⟩ := frameLength_eq_some.mp hset
  obtain rfl : len = buf.length := by rw [← hdecl', byteAt_set_of_ne hk2, hdecl]
  have hlast : byteAt (buf.set k x) (buf.length - 1) = byteAt buf (buf.length - 1) := byteAt_set_of_ne (by omega) x
  have hmoved := checksum_set (b := buf.take (buf.length - 1)) (k := k) (by simp; omega) x
  rw [← List.take_set, hsum', hlast, hsum, byteAt_take (by omega), BitVec.add_right_inj] at hmoved
  exact hx hmoved

/-- Settles O28: the changed buffer has no frame of either minimum. -/
theorem singleByteCorruptionIsRejected : Obligations.SingleByteCorruptionIsRejected := by
  intro p buf k b hk hk2 hb
  have hb' : byteAt buf k ≠ b := (getElem?_eq_some_iff_byteAt (by omega) b).not.mp hb
  have hnone : ∀ min, 3 ≤ min → frameAt min buf buf.length → frameLength min (buf.set k b) = none :=
    fun min hmin h => frameLength_set_eq_none ((frameLength_eq_some_iff_frameAt hmin).mpr h) hk hk2 hb'
  refine ⟨fun h => ?_, fun h => ?_⟩
  · rw [decodeCommand_eq, hnone 15 (by decide) h, Option.map_none]
  · rw [decodeResponse_eq, hnone 14 (by decide) h, Option.map_none]

-- Exchanged addresses (R97).

theorem addrBytes_inj {x y : Addr} : addrBytes x = addrBytes y ↔ x = y := by
  refine ⟨fun h => ?_, congrArg addrBytes⟩
  cases x
  cases y
  simpa [addrBytes] using h

/-- A frame in its parts: four bytes of header, the addresses, `t` and the checksum (R55, R61). -/
theorem frameOf_eq_append (x1 x3 : Byte) (dst src : Addr) (t : List Byte) :
    frameOf x1 x3 dst src t = [Config.preamble, x1, BitVec.ofNat 8 (13 + t.length), x3] ++ addrBytes dst ++
      addrBytes src ++ (t ++ [checksum (headOf x1 (BitVec.ofNat 8 (13 + t.length)) x3 dst src ++ t)]) := by
  simp [frameOf, sealFrame, headOf]

/-- The checksum is the same for both orders of the addresses, so exchanging them gives another frame (R97). -/
theorem checksum_headOf_swap (x1 len x3 : Byte) (dst src : Addr) (t : List Byte) :
    checksum (headOf x1 len x3 src dst ++ t) = checksum (headOf x1 len x3 dst src ++ t) := by
  simp only [headOf, checksum_append]
  ac_rfl

/-- Settles O29: the buffer begins with a frame, and by `checksum_headOf_swap` so does the one with its addresses
exchanged. -/
theorem exchangedAddressesGoUndetected : Obligations.ExchangedAddressesGoUndetected := by
  intro a b x y c ha h
  obtain ⟨len, hlen⟩ := decodeCommand_ne_none_iff.mp (Option.ne_none_iff_exists'.mpr ⟨c, h⟩)
  obtain ⟨x1, x3, dst, src, hi, lo, pay, rest, hbuf, -, hpay⟩ := exists_commandFrame hlen
  rw [hbuf, decodeCommand_frameOf hpay, Option.some_inj] at h
  rw [frameOf_eq_append, List.append_assoc _ _ rest] at hbuf
  obtain ⟨hhead, rfl⟩ := List.append_inj hbuf (by simp [ha])
  obtain ⟨hhead, hy⟩ := List.append_inj hhead (by simp [ha])
  obtain ⟨rfl, hx⟩ := List.append_inj hhead ha
  obtain rfl := addrBytes_inj.mp hx
  obtain rfl := addrBytes_inj.mp hy
  subst h
  rw [← checksum_headOf_swap, ← List.append_assoc, ← frameOf_eq_append, decodeCommand_frameOf hpay]
  exact ⟨rfl, rfl, rfl⟩

end Sys2Proof.Machine
end

section
/-! The rows of the engine (O30 to O36): where each step is enabled, and the state it leaves, by the environment's answer. -/
namespace Sys2Proof.Machine

section
variable {p : Params} {code : Code} {dst : Addr} {pay : List Byte} {s : State}

-- `Request` (R100, R101).

theorem stepRequest_of_not_idle (hp : s.phase ≠ .idle) : stepRequest code dst pay s = .fault .requestOutsideIdle :=
  if_pos hp

theorem stepRequest_of_long (hp : s.phase = .idle) (hl : 240 < pay.length) :
    stepRequest code dst pay s = .refused .requestTooLong := by
  simp [stepRequest, hp, Config.cmdDataMax, hl]

theorem accept_of_open (hc : s.connOpen = true) : accept code dst pay s = { s with
    resKind := .none, resCount := 0, reqCode := code, reqDst := dst, reqLen := BitVec.ofNat 8 pay.length
    reqPay := payloadBuffer pay, expLen := BitVec.ofNat 8 (expectedResponseLen code)
    rxq := [], txq := [], tmr := 0, phase := .settle } :=
  if_pos hc

theorem accept_of_closed (hc : s.connOpen = false) : accept code dst pay s = raise .noConnection 0 s :=
  if_neg (by simp [hc])

-- `SettleDone` (R102, R103).

theorem stepSettleDone_of_noFrame (hp : s.phase = .settle) (ht : s.tmr = p.tSettle) (hf : buildCommand s = none) :
    stepSettleDone p s = .refused .commandTooLong := by
  simp [stepSettleDone, hp, ht, hf]

theorem stepSettleDone_not_enabled (h : ¬ (s.phase = .settle ∧ s.tmr = p.tSettle)) :
    stepSettleDone p s = .fault .settleDoneNotEnabled :=
  if_neg h

theorem requestedCommand_payload_length (hpay : s.reqPay.length = 255) :
    (requestedCommand s).payload.length = s.reqLen.toNat := by
  have := s.reqLen.isLt
  simp [requestedCommand, hpay]; omega

-- `Write` (R104).

theorem stepWrite_fail (hp : s.phase = .write) (hd : (nextDraw s).ok = false) : stepWrite p s =
    .next (raise .ioError 0 { afterDraw s with
      txq := s.txq ++ (txFrame s).take (min (nextDraw s).count ((txFrame s).length - 1)) }) := by
  rw [stepWrite_of_phase hp, linkWrite_fail hd]; rfl

theorem stepWrite_not_enabled (hp : s.phase ≠ .write) : stepWrite p s = .fault .writeNotEnabled := if_neg hp

-- `Poll` (R105, R106).

theorem stepPoll_fail (hp : s.phase = .poll) (ht : s.pollTmr = p.tPoll) (hd : (nextDraw s).ok = false) :
    stepPoll p s = .next (raise .ioError 0 (afterDraw s)) := by
  rw [stepPoll_of_phase hp ht, linkAvail_fail hd]; rfl

theorem stepPoll_timeout (hp : s.phase = .poll) (ht : s.pollTmr = p.tPoll) (hd : (nextDraw s).ok = true)
    (hn : s.rxq.length < s.expLen.toNat) (he : p.tTimeout < s.elapsed) :
    stepPoll p s = .next (raise .timeout 0 (afterDraw s)) := by
  rw [stepPoll_of_phase hp ht, linkAvail_ok hd]
  simp [afterAvail, Nat.not_le.mpr hn, he]

theorem stepPoll_wait (hp : s.phase = .poll) (ht : s.pollTmr = p.tPoll) (hd : (nextDraw s).ok = true)
    (hn : s.rxq.length < s.expLen.toNat) (he : s.elapsed ≤ p.tTimeout) :
    stepPoll p s = .next { afterDraw s with pollTmr := 0 } := by
  rw [stepPoll_of_phase hp ht, linkAvail_ok hd]
  simp [afterAvail, Nat.not_le.mpr hn, Nat.not_lt.mpr he]

theorem stepPoll_not_enabled (h : ¬ (s.phase = .poll ∧ s.pollTmr = p.tPoll)) :
    stepPoll p s = .fault .pollNotEnabled :=
  if_neg h

-- `Read` (R107, R108).

theorem stepRead_fail (hp : s.phase = .read) (hd : (nextDraw s).ok = false) :
    stepRead p s = .next (raise .ioError 0 (afterDraw s)) := by
  rw [stepRead_of_phase hp, linkRead_fail hd]; rfl

theorem stepRead_not_enabled (hp : s.phase ≠ .read) : stepRead p s = .fault .readNotEnabled := if_neg hp

/-- The state in which a read has taken `m` bytes into `RXBUF` (R107). -/
def taken (m : Nat) (s : State) : State :=
  storeReceived (s.rxq.take m) { afterDraw s with rxq := s.rxq.drop m }

section
variable {m : Nat} (hm : m = min (nextDraw s).count (min s.expLen.toNat s.rxq.length))
include hm

theorem length_rxq_take : (s.rxq.take m).length = m := by
  rw [List.length_take]; omega

theorem count_lt : m < 256 := (show m ≤ s.expLen.toNat by omega).trans_lt s.expLen.isLt

/-- What a read that took `m` bytes leaves in `RXQ`, `RXBUF` and `RXCNT`. -/
theorem taken_eq : taken m s = { afterDraw s with
    rxq := s.rxq.drop m, rxBuf := s.rxq.take m ++ s.rxBuf.drop m, rxCnt := BitVec.ofNat 8 m } := by
  simp only [taken, storeReceived, overwrite, length_rxq_take hm, afterDraw_rxBuf]

theorem rxFrame_taken : rxFrame (taken m s) = s.rxq.take m :=
  rxFrame_storeReceived _ ((length_rxq_take hm).trans_lt (count_lt hm))

/-- A read that succeeds takes the bytes the link returns and goes on to test them. -/
theorem stepRead_ok (hp : s.phase = .read) (hd : (nextDraw s).ok = true) : stepRead p s =
    .next (if m < s.expLen.toNat then raise .frameError m (taken m s) else complete p (taken m s)) := by
  have hcount : readCount s.expLen.toNat (nextDraw s) s = m := hm.symm
  rw [stepRead_of_phase hp, linkRead_ok hd, hcount]
  simp only [afterRead, length_rxq_take hm, taken, afterDraw_expLen]

theorem complete_taken_of_noFrame (hr : decodeResponse p (s.rxq.take m) = none) :
    complete p (taken m s) = raise .frameError m (taken m s) := by
  have hcnt : (taken m s).rxCnt.toNat = m := by
    simp [taken_eq hm, Nat.mod_eq_of_lt (count_lt hm)]
  simp [complete, rxFrame_taken hm, hr, hcnt]

theorem complete_taken_of_frame {r : Response} (hr : decodeResponse p (s.rxq.take m) = some r) :
    complete p (taken m s) = { taken m s with rsp := r, resKind := .ok, resCount := 0, phase := .done } := by
  simp [complete, rxFrame_taken hm, hr]

end

-- `Ack` (R109) and `Tick` (R110).

theorem engineDue_iff : engineDue p s = true ↔ (s.phase = .settle ∧ s.tmr = p.tSettle) ∨ s.phase = .write ∨
    (s.phase = .poll ∧ s.pollTmr = p.tPoll) ∨ s.phase = .read := by
  cases hp : s.phase <;> simp [engineDue, hp]

theorem not_due_of_untimed (h : s.phase = .idle ∨ s.phase = .done) : engineDue p s = false := by
  obtain hp | hp := h <;> simp [engineDue, hp]

theorem not_due_of_settle (hp : s.phase = .settle) (ht : s.tmr ≠ p.tSettle) : engineDue p s = false := by
  simp [engineDue, hp, ht]

theorem not_due_of_poll (hp : s.phase = .poll) (ht : s.pollTmr ≠ p.tPoll) : engineDue p s = false := by
  simp [engineDue, hp, ht]

theorem stepTick_due (h : engineDue p s = true) : stepTick p s = .fault .tickNotEnabled := if_pos h

theorem passTime_of_untimed (h : s.phase = .idle ∨ s.phase = .done) : passTime s = { s with now := s.now + 1 } := by
  obtain hp | hp := h <;> simp [passTime, hp]

theorem passTime_of_settle (h : s.phase = .settle) :
    passTime s = { s with now := s.now + 1, tmr := s.tmr + 1 } := by
  simp [passTime, h]

theorem passTime_of_poll (h : s.phase = .poll) :
    passTime s = { s with now := s.now + 1, elapsed := s.elapsed + 1, pollTmr := s.pollTmr + 1 } := by
  simp [passTime, h]

end

/-- Settles O30, by `PHASE`, the length of the payload and the connection. -/
theorem requestOpensATransaction : Obligations.RequestOpensATransaction := by
  refine fun code dst pay s => ⟨fun hp hl hc => ?_, fun hp hl hc => ?_, stepRequest_of_not_idle, stepRequest_of_long⟩
  · exact (stepRequest_of_idle hp hl).trans (congrArg _ (accept_of_open hc))
  · exact (stepRequest_of_idle hp hl).trans (congrArg _ (accept_of_closed hc))

/-- Settles O31: the payload of the registers' Command has `REQ_LEN` bytes, and that decides whether it has a frame. -/
theorem settleDoneBuildsTheCommand : Obligations.SettleDoneBuildsTheCommand := by
  refine fun s => ⟨fun hp ht hl hpay => ?_, fun hp ht hl hpay => ?_, stepSettleDone_not_enabled (p := Config.params)⟩
  all_goals have hlen := requestedCommand_payload_length hpay
  · obtain ⟨f, hf, hfl⟩ := encodeCommand_some (hlen.trans_le hl)
    exact ⟨f, s.txBuf.drop f.length, hf, hlen ▸ hfl, stepSettleDone_of_frame (p := Config.params) hp ht hf⟩
  · exact stepSettleDone_of_noFrame (p := Config.params) hp ht (encodeCommand_none.mpr (hlen.symm ▸ hl))

/-- Settles O32, by the environment's answer; a failing write of a frame hands over fewer bytes than it has. -/
theorem writeHandsTheFrameToTheLink : Obligations.WriteHandsTheFrameToTheLink := by
  refine fun s => ⟨fun hp hok => stepWrite_ok hp hok, fun hp hd => ⟨_, fun hne => ?_, stepWrite_fail hp hd⟩,
    stepWrite_not_enabled⟩
  have hpos : 0 < (txFrame s).length := List.length_pos_iff.mpr hne
  exact (min_le_right _ _).trans_lt (Nat.sub_lt hpos Nat.one_pos)

/-- Settles O33, by the tests of R105 in their order. -/
theorem pollTestsAvailabilityThenTimeout : Obligations.PollTestsAvailabilityThenTimeout :=
  fun _ => ⟨fun hp ht => ⟨stepPoll_fail (p := Config.params) hp ht, stepPoll_enough (p := Config.params) hp ht,
    stepPoll_timeout (p := Config.params) hp ht, stepPoll_wait (p := Config.params) hp ht⟩,
    stepPoll_not_enabled (p := Config.params)⟩

/-- Settles O34: after a read that fails, one that takes too few bytes, and one whose bytes are decoded. -/
theorem readTakesTheReply : Obligations.ReadTakesTheReply := by
  refine fun s => ⟨fun hp m hm => ⟨stepRead_fail hp, fun hd hlt => ?_, fun hd hn hr => ?_, fun r hd hn hr => ?_⟩,
    stepRead_not_enabled⟩
  all_goals refine (stepRead_ok hm hp hd).trans ?_
  · rw [if_pos hlt, taken_eq hm]; rfl
  · rw [if_neg hn.not_lt, complete_taken_of_noFrame hm hr, taken_eq hm]; rfl
  · rw [if_neg hn.not_lt, complete_taken_of_frame hm hr, taken_eq hm]

/-- Settles O35, by the two branches of the step. -/
theorem ackReturnsToIdle : Obligations.AckReturnsToIdle := fun _ => ⟨fun h => if_pos h, fun h => if_neg h⟩

/-- Settles O36: which timers a millisecond advances, by the phase, where no engine step is due. -/
theorem tickPassesOneMillisecond : Obligations.TickPassesOneMillisecond := by
  refine fun s => ⟨fun hp => ?_, fun hp ht => ?_, fun hp ht => ?_,
    fun h => stepTick_due (engineDue_iff (p := Config.params).mpr h)⟩
  · exact (stepTick_not_due (not_due_of_untimed hp)).trans (congrArg _ (passTime_of_untimed hp))
  · exact (stepTick_not_due (not_due_of_settle hp ht)).trans (congrArg _ (passTime_of_settle hp))
  · exact (stepTick_not_due (not_due_of_poll hp ht)).trans (congrArg _ (passTime_of_poll hp))

end Sys2Proof.Machine
end

section
/-! Where a whole transaction has no step (O45), and what it does with no connection (O46). -/
namespace Sys2Proof.Machine

section
variable {p : Params} {code : Code} {dst : Addr} {pay : List Byte} {s : State}

theorem call_of_not_idle (hp : s.phase ≠ .idle) : call p code dst pay s = .fault .requestOutsideIdle := by
  rw [call, stepRequest_of_not_idle hp, andThen_fault, andThen_fault]

theorem call_of_long (hp : s.phase = .idle) (hl : 240 < pay.length) :
    call p code dst pay s = .refused .requestTooLong := by
  rw [call, stepRequest_of_long hp hl, andThen_refused, andThen_refused]

/-- With no connection a transaction ends at its acceptance (R100, R129). -/
theorem call_of_closed (hp : s.phase = .idle) (hl : pay.length ≤ 240) (hc : s.connOpen = false) :
    call p code dst pay s = .next (.err .noConnection, acknowledge (raise .noConnection 0 s)) := by
  rw [call, stepRequest_of_idle hp hl, accept_of_closed hc, andThen_next, engineRun_done (raise_phase _ _ _)]
  rfl

theorem acknowledge_raise_of_idle (hp : s.phase = .idle) (k : ResKind) (n : Nat) :
    acknowledge (raise k n s) = { s with resKind := k, resCount := n } := by
  simp only [acknowledge, raise, hp]

end

/-- Settles O45: each row is a transaction, which begins with its request. -/
theorem transactionsStopOutsideIdleOrTooLong : Obligations.TransactionsStopOutsideIdleOrTooLong := by
  intro i code dst pay s hi
  rw [exec_transaction hi, execute]
  exact ⟨fun hp => by rw [call_of_not_idle hp, andThen_fault], fun hp hl => by rw [call_of_long hp hl, andThen_refused]⟩

/-- Settles O46: the request raises the error at once, and a whole transaction acknowledges it, which is back in `IDLE`. -/
theorem noConnectionTouchesNothing : Obligations.NoConnectionTouchesNothing := by
  refine fun i code dst pay s hp hl hc => ⟨?_, fun hi => ?_⟩
  · exact (stepRequest_of_idle hp hl).trans (congrArg _ (accept_of_closed hc))
  · rw [exec_transaction hi, execute, call_of_closed hp hl hc, andThen_next, acknowledge_raise_of_idle hp]
    rfl

end Sys2Proof.Machine
end

section
/-! How long a transaction takes, read off the sequential procedure (R99) it is: at most the bound of R111 (O49), exactly
the settle wait with an unknown code (O48), and exactly the bound on a silent link (O50). -/
namespace Sys2Proof.Machine

@[simp] theorem linkWrite_now (f : List Byte) (s : State) : (linkWrite f s).2.now = s.now := rfl
@[simp] theorem linkAvail_now (s : State) : (linkAvail s).2.now = s.now := rfl

section
variable {p : Params} {n k j d : Nat} {code : Code} {dst : Addr} {pay : List Byte} {s t : State} {r : TxResult}

theorem readReply_snd : (readReply p n s).2 = (linkRead n s).2 := by
  cases hb : (linkRead n s).1 with
  | none => rw [readReply_of_none hb]
  | some b =>
    by_cases hl : b.length < n
    · rw [readReply_of_short hb hl]
    · cases hd : decodeResponse p b with
      | none => rw [readReply_of_noFrame hb (Nat.not_lt.mp hl) hd]
      | some q => rw [readReply_of_frame hb (Nat.not_lt.mp hl) hd]

@[simp] theorem readReply_now : (readReply p n s).2.now = s.now := by rw [readReply_snd, linkRead_now]

/-- A poll either decides the transaction, and no time passes, or waits for the next poll while the budget lasts (R105). -/
theorem pollLoop_succ_cases : (pollLoop p n (k + 1) d s).2.now = s.now ∨
    (d ≤ p.tTimeout ∧ pollLoop p n (k + 1) d s =
      pollLoop p n k (d + p.tPoll) (waitMs p.tPoll (linkAvail (envTurn s)).2)) := by
  cases ha : (linkAvail (envTurn s)).1 with
  | none => exact .inl (by rw [pollLoop_of_none ha]; rfl)
  | some a =>
    by_cases hn : n ≤ a
    · exact .inl (by rw [pollLoop_of_enough ha hn]; simp)
    · by_cases ht : p.tTimeout < d
      · exact .inl (by rw [pollLoop_of_timeout ha (Nat.not_le.mp hn) ht]; rfl)
      · exact .inr ⟨Nat.not_lt.mp ht, pollLoop_of_wait ha (Nat.not_le.mp hn) (Nat.not_lt.mp ht)⟩

/-- The polls are `T_POLL_MS` apart, and the last wait starts within the budget: from the poll `j` intervals after the
write on, the loop ends at the first multiple of `T_POLL_MS` past the budget at the latest (R106). -/
theorem pollLoop_now_le (hpos : 0 < p.tPoll) (hj : j ≤ p.tTimeout / p.tPoll + 1) :
    (pollLoop p n k (p.tPoll * j) s).2.now + p.tPoll * j ≤ s.now + p.tPoll * (p.tTimeout / p.tPoll + 1) := by
  have hend : p.tPoll * j ≤ p.tPoll * (p.tTimeout / p.tPoll + 1) := Nat.mul_le_mul_left _ hj
  induction k generalizing j s with
  | zero => exact Nat.add_le_add_left hend _
  | succ k ih =>
    obtain h | ⟨hd, h⟩ := pollLoop_succ_cases (p := p) (n := n) (k := k) (d := p.tPoll * j) (s := s)
    · rw [h]; exact Nat.add_le_add_left hend _
    · have hj' : j ≤ p.tTimeout / p.tPoll := (Nat.le_div_iff_mul_le hpos).mpr (Nat.mul_comm _ _ ▸ hd)
      have hrest := ih (j := j + 1) (s := waitMs p.tPoll (linkAvail (envTurn s)).2) (by omega)
        (Nat.mul_le_mul_left _ (by omega))
      rw [waitMs_now, linkAvail_now, envTurn_now, Nat.mul_succ] at hrest
      rw [h]; omega

theorem writeAndPoll_now_le (hpos : 0 < p.tPoll) (f : List Byte) :
    (writeAndPoll p n f s).2.now ≤ s.now + p.tPoll * (p.tTimeout / p.tPoll + 1) := by
  unfold writeAndPoll
  split
  · exact pollLoop_now_le (j := 0) hpos (Nat.zero_le _)
  · exact Nat.le_add_right _ _

/-- The procedure ends within the bound of R111. -/
theorem sequentialExecute_now_le (hpos : 0 < p.tPoll) : (sequentialExecute p code dst pay s).2.now ≤
    s.now + p.tSettle + p.tPoll * (p.tTimeout / p.tPoll + 1) := by
  unfold sequentialExecute
  split
  · refine (writeAndPoll_now_le hpos _).trans_eq ?_
    rw [envTurn_now, envTurn_now, waitMs_now, linkFlush_now]
  · exact (Nat.le_add_right _ _).trans (Nat.le_add_right _ _)

/-- A transaction ends with the procedure's result, at the procedure's time. -/
theorem call_result_now (hpos : 0 < p.tPoll) (hp : s.phase = .idle) (hl : pay.length ≤ 240) :
    ∃ t, call p code dst pay s = .next ((sequentialExecute p code dst pay s).1, t) ∧
      t.now = (sequentialExecute p code dst pay s).2.now := by
  obtain ⟨t, hcall, -, hlink, -⟩ := call_eq_sequentialExecute hpos hp hl
  exact ⟨t, hcall, (congrArg State.now hlink).symm⟩

-- With an unknown code no byte is expected (R84, R112).

/-- The end at time `d` of a transaction that expects no byte: a frame error of no bytes, or an I/O error. -/
def FailsAt (d : Nat) (x : TxResult × State) : Prop :=
  (x.1 = .err (.frameError 0) ∨ x.1 = .err .ioError) ∧ x.2.now = d

theorem readReply_zero : FailsAt s.now (readReply p 0 s) := by
  refine ⟨?_, readReply_now⟩
  cases hb : (linkRead 0 s).1 with
  | none => exact .inr (by rw [readReply_of_none hb])
  | some b =>
    obtain rfl : b = [] := List.length_eq_zero_iff.mp (Nat.le_zero.mp (linkRead_some hb).1)
    have hnone : decodeResponse p [] = none := decodeResponse_short (by decide)
    exact .inl (by rw [readReply_of_noFrame hb (Nat.zero_le _) hnone, List.length_nil])

theorem pollLoop_zero : FailsAt s.now (pollLoop p 0 (k + 1) d s) := by
  cases ha : (linkAvail (envTurn s)).1 with
  | none =>
    rw [pollLoop_of_none ha]
    exact ⟨.inr rfl, rfl⟩
  | some a =>
    rw [pollLoop_of_enough ha (Nat.zero_le a), ← envTurn_now s, ← linkAvail_now (envTurn s), ← envTurn_now]
    exact readReply_zero

theorem writeAndPoll_zero (f : List Byte) : FailsAt s.now (writeAndPoll p 0 f s) := by
  unfold writeAndPoll
  split
  · rw [← linkWrite_now f s]
    exact pollLoop_zero
  · exact ⟨.inr rfl, rfl⟩

/-- With an unknown code the procedure fails when the settle wait is over (R112). -/
theorem sequentialExecute_unknown {hi lo : Byte} (hc : s.connOpen = true) :
    FailsAt (s.now + p.tSettle) (sequentialExecute p (.unknown hi lo) dst pay s) := by
  have hnow : (envTurn (envTurn (waitMs p.tSettle (linkFlush s)))).now = s.now + p.tSettle := by
    rw [envTurn_now, envTurn_now, waitMs_now, linkFlush_now]
  rw [sequentialExecute, if_pos hc, ← hnow]
  exact writeAndPoll_zero _

-- A silent link (R106).

/-- At least `k` answers of the link are listed, all successes. -/
def AnswersOk (k : Nat) (s : State) : Prop := k ≤ s.draws.length ∧ ∀ d ∈ s.draws, d.ok = true

theorem AnswersOk.nextDraw_ok (h : AnswersOk (k + 1) s) : (nextDraw s).ok = true := by
  obtain ⟨hk, hok⟩ := h
  obtain ⟨d, ds, hd⟩ := List.exists_cons_of_length_pos (show 0 < s.draws.length by omega)
  rw [nextDraw_listed hd]
  exact hok d (by simp [hd])

theorem AnswersOk.afterDraw (h : AnswersOk (k + 1) s) : AnswersOk k (afterDraw s) :=
  ⟨by simpa using Nat.sub_le_sub_right h.1 1, fun d hd => h.2 d (List.mem_of_mem_tail hd)⟩

theorem AnswersOk.envTurn (h : AnswersOk k s) : AnswersOk k (envTurn s) := h

theorem AnswersOk.waitMs (h : AnswersOk k s) : AnswersOk k (waitMs n s) := by
  rwa [AnswersOk, waitMs_draws]

theorem AnswersOk.linkAvail (h : AnswersOk (k + 1) s) : AnswersOk k (linkAvail s).2 := h.afterDraw

theorem AnswersOk.linkWrite {f : List Byte} (h : AnswersOk (k + 1) s) : AnswersOk k (linkWrite f s).2 := h.afterDraw

theorem Arriving.linkAvail {q : List Byte} (h : Arriving q k s) : Arriving q k (linkAvail s).2 := h

theorem Arriving.linkWrite {q f : List Byte} (h : Arriving q k s) : Arriving q k (linkWrite f s).2 := h

theorem linkAvail_silent (hq : Arriving [] j s) (hd : AnswersOk (k + 1) s) : (linkAvail (envTurn s)).1 = some 0 := by
  rw [linkAvail_ok hd.envTurn.nextDraw_ok, hq.envTurn_rxq, List.length_nil]

/-- While no byte comes the loop polls up to the first time past the budget, and ends there with a timeout (R106). -/
theorem pollLoop_silent (hpos : 0 < p.tPoll) (hn : 0 < n) (hq : Arriving [] (p.tPoll * k + k) s)
    (hd : AnswersOk (k + 1) s) (hj : j + k = p.tTimeout / p.tPoll + 1) :
    ∃ t, pollLoop p n (k + 1) (p.tPoll * j) s = (.err .timeout, t) ∧ t.now = s.now + p.tPoll * k := by
  induction k generalizing j s with
  | zero =>
    have hover : p.tTimeout < p.tPoll * j := by
      rw [Nat.mul_comm, show j = p.tTimeout / p.tPoll + 1 from hj]; exact budget_exceeded hpos
    exact ⟨_, pollLoop_of_timeout (linkAvail_silent hq hd) hn hover, rfl⟩
  | succ k ih =>
    have hbudget : p.tPoll * j ≤ p.tTimeout := (Nat.mul_le_mul_left _ (by omega)).trans (Nat.mul_div_le _ p.tPoll)
    have hturns : p.tPoll * (k + 1) + (k + 1) = p.tPoll + (p.tPoll * k + k) + 1 := by rw [Nat.mul_succ]; omega
    have hq' : Arriving [] (p.tPoll * k + k) (waitMs p.tPoll (linkAvail (envTurn s)).2) :=
      (hturns ▸ hq).envTurn.linkAvail.waitMs
    have hd' : AnswersOk (k + 1) (waitMs p.tPoll (linkAvail (envTurn s)).2) := hd.envTurn.linkAvail.waitMs
    obtain ⟨t, ht, hnow⟩ := ih (j := j + 1) hq' hd' (by omega)
    refine ⟨t, (pollLoop_of_wait (linkAvail_silent hq hd) hn hbudget).trans ht, ?_⟩
    rw [hnow, waitMs_now, linkAvail_now, envTurn_now, Nat.mul_succ]; omega

theorem writeAndPoll_silent (f : List Byte) (hpos : 0 < p.tPoll) (hn : 0 < n)
    (hq : Arriving [] (p.tPoll * (p.tTimeout / p.tPoll + 1) + (p.tTimeout / p.tPoll + 1)) s)
    (hd : AnswersOk (pollBound p + 1) s) : ∃ t, writeAndPoll p n f s = (.err .timeout, t) ∧
      t.now = s.now + p.tPoll * (p.tTimeout / p.tPoll + 1) := by
  rw [writeAndPoll, if_pos (show (linkWrite f s).1 = true from hd.nextDraw_ok), ← linkWrite_now f s]
  exact pollLoop_silent (j := 0) hpos hn hq.linkWrite hd.linkWrite (Nat.zero_add _)

/-- The procedure on a silent link ends with a timeout exactly at the bound. -/
theorem sequentialExecute_silent (hpos : 0 < p.tPoll) (hc : s.connOpen = true) (hn : 0 < expectedResponseLen code)
    (hd : AnswersOk (pollBound p + 1) s) (ht : stepBound p ≤ s.turns.length) (hu : ∀ u ∈ s.turns, u.deliver = []) :
    ∃ t, sequentialExecute p code dst pay s = (.err .timeout, t) ∧
      t.now = s.now + p.tSettle + p.tPoll * (p.tTimeout / p.tPoll + 1) := by
  have hq : Arriving [] (p.tSettle + (p.tPoll * (p.tTimeout / p.tPoll + 1) + (p.tTimeout / p.tPoll + 1) + 2))
      (linkFlush s) := by
    obtain ⟨u, us, hus⟩ := List.exists_cons_of_length_pos ((show 0 < stepBound p from Nat.succ_pos _).trans_le ht)
    rw [hus, List.length_cons, stepBound, pollBound] at ht
    exact ⟨u, us, hus, by omega, fun v hv => hu v (by simp [hus, hv]), by simp [hu u (by simp [hus])]⟩
  have hd' : AnswersOk (pollBound p + 1) (linkFlush s) := hd
  obtain ⟨t, ht, hnow⟩ := writeAndPoll_silent ((encodeCommand ⟨dst, Config.stationAddr, code, pay⟩).getD []) hpos hn
    hq.waitMs.envTurn.envTurn hd'.waitMs.envTurn.envTurn
  rw [envTurn_now, envTurn_now, waitMs_now, linkFlush_now] at hnow
  exact ⟨t, (if_pos hc).trans ht, hnow⟩

theorem expectedResponseLen_pos (h : ∀ hi lo, code ≠ .unknown hi lo) : 0 < expectedResponseLen code := by
  cases code with
  | unknown hi lo => exact absurd rfl (h hi lo)
  | readInput => decide
  | setOutput => decide
  | setAddress => decide
  | readAddress => decide
  | readFirmwareVersion => decide

end

/-- Settles O48: the row is the procedure, which with an unknown code expects no byte, and `T_SETTLE_MS` is 20. -/
theorem unknownCodesNeverSucceed : Obligations.UnknownCodesNeverSucceed := by
  intro i hi lo dst pay s t htx hc e
  have htx' := exec_transaction htx s ▸ e
  obtain ⟨x, hx, -⟩ := execute_next htx'
  obtain ⟨hp, hl⟩ := call_next hx
  obtain ⟨u, hu, hret, -, -, -, hnow, -⟩ := transactionsAreTheSequentialProcedure i _ dst pay s htx hp hl
  obtain rfl : u = t := by simpa [hu] using e
  obtain ⟨hres, htime⟩ := sequentialExecute_unknown (p := Config.params) (hi := hi) (lo := lo) (dst := dst) (pay := pay) hc
  exact ⟨hret ▸ hres.imp (congrArg _) (congrArg _), hnow.trans htime⟩

/-- Settles O49, by the time of the procedure the transaction is. -/
theorem transactionsEndWithinTheBound : Obligations.TransactionsEndWithinTheBound := by
  intro p code dst pay s hpos hp hl
  obtain ⟨t, hcall, hnow⟩ := call_result_now (code := code) (dst := dst) hpos hp hl
  exact ⟨_, t, hcall, call_idle hcall, hnow ▸ sequentialExecute_now_le hpos⟩

/-- Settles O50: the procedure polls as long as it may, and the transaction is the procedure. -/
theorem silentLinkTimesOutAtTheBound : Obligations.SilentLinkTimesOutAtTheBound := by
  intro p code dst pay s hpos hp hl hc hcode hdraws hok hturns hquiet
  obtain ⟨t, hcall, hnow⟩ := call_result_now (code := code) (dst := dst) hpos hp hl
  obtain ⟨u, hu, htime⟩ := sequentialExecute_silent (dst := dst) (pay := pay) hpos hc (expectedResponseLen_pos hcode)
    ⟨hdraws, hok⟩ hturns hquiet
  rw [hu] at hcall hnow
  exact ⟨t, hcall, hnow.trans htime⟩

end Sys2Proof.Machine
end

section
/-! The acceptance test is the program of R126 over the sequential procedures (O52): each part of the test, run beside its
part of the program, goes on as the program does or ends with the program's report. -/
namespace Sys2Proof.Machine

/-- `s` is the machine, in `IDLE` with the plan `g`, where the program has reached `l`: it has the link, the time and the
environment's choices of `l`, and its connection. -/
structure Beside (g : List Byte) (s l : State) : Prop where
  idle : s.phase = .idle
  agenda : s.agenda = g
  connOpen : s.connOpen = l.connOpen
  link : onto s l = s

theorem Beside.link_eq {g : List Byte} {s l : State} (h : Beside g s l) : s.rxq = l.rxq ∧ s.txq = l.txq ∧
    s.now = l.now ∧ s.draws = l.draws ∧ s.turns = l.turns ∧ s.freeCount = l.freeCount := by
  rw [← h.link]
  exact ⟨rfl, rfl, rfl, rfl, rfl, rfl⟩

/-- What a report may be (R121 to R124): success, an engine's error, or a failed verification of the initial check or of a
channel, which names the byte expected and another one read. -/
def Reportable (rep : Report) : Prop :=
  rep = .success ∨ (∃ e, rep = .engineError e) ∨
    (∃ x : Byte, x ≠ 0x00 ∧ rep = .verificationFailure .initialCheck 0x00 x) ∨
    ∃ (i : Fin 4) (e x : Byte), e.toNat = 2 ^ i.val ∧ x ≠ e ∧ rep = .verificationFailure (.channel i) e x

theorem reportable_initialCheck (x : Byte) (hx : x ≠ 0x00) :
    Reportable (.verificationFailure .initialCheck 0x00 x) :=
  .inr (.inr (.inl ⟨x, hx, rfl⟩))

theorem channelByte_toNat (i : Fin 4) : (channelByte i).toNat = 2 ^ i.val := by
  revert i; decide

theorem reportable_channel (i : Fin 4) (x : Byte) (hx : x ≠ channelByte i) :
    Reportable (.verificationFailure (.channel i) (channelByte i) x) :=
  .inr (.inr (.inr ⟨i, _, x, channelByte_toNat i, hx, rfl⟩))

/-- The operation ends with the report `x.1`, beside the program that ends at `x.2`. -/
def Reports (g : List Byte) (x : Report × State) (o : Out) : Prop :=
  ∃ t, o = .next t ∧ t.returned = .report x.1 ∧ Beside g t x.2 ∧ Reportable x.1

/-- The end of the program: one that goes on to its end has succeeded. -/
def ending : TestPart State → Report × State
  | .ok t => (.success, t)
  | .error x => x

/-- The rest `k` of the test, run beside the rest `prog` of the program, ends with the program's report. -/
def Refines (g : List Byte) (k : State → Out) (prog : State → TestPart State) : Prop :=
  ∀ s l, Beside g s l → Reports g (ending (prog l)) (k s)

-- The procedure depends on the link alone, and leaves the registers.

section
variable {p : Params} {g : List Byte} {code : Code} {a : Addr} {pay : List Byte} {s l : State}

theorem sequentialExecute_connOpen : (sequentialExecute p code a pay l).2.connOpen = l.connOpen :=
  congrArg (fun x => x.2.connOpen) (sequentialExecute_onto p code a pay l l rfl)

theorem Beside.sequentialExecute (h : Beside g s l) : sequentialExecute p code a pay s =
    ((sequentialExecute p code a pay l).1, onto s (sequentialExecute p code a pay l).2) := by
  rw [← sequentialExecute_onto p code a pay s l h.connOpen, h.link]

/-- A transaction runs beside the procedure. -/
theorem Beside.call (hpos : 0 < p.tPoll) (hl : pay.length ≤ 240) (h : Beside g s l) :
    ∃ t, call p code a pay s = .next ((Machine.sequentialExecute p code a pay l).1, t) ∧
      Beside g t (Machine.sequentialExecute p code a pay l).2 := by
  obtain ⟨t, hcall, -, hlink, ha⟩ := call_eq_sequentialExecute (code := code) (dst := a) hpos h.idle hl
  rw [h.sequentialExecute] at hcall hlink
  refine ⟨t, hcall, call_idle hcall, ha.trans h.agenda, ?_, hlink⟩
  exact ((steady_connOpen p s.connOpen).call rfl hcall).trans (h.connOpen.trans sequentialExecute_connOpen.symm)

/-- In `IDLE` the host's wait is the program's. -/
theorem hostWait_eq_waitMs {n : Nat} (h : s.phase = .idle) : hostWait p n s = .next (waitMs n s) := by
  induction n generalizing s with
  | zero => rfl
  | succ n ih =>
    have hidle : (envTurn s).phase = .idle ∨ (envTurn s).phase = .done := .inl h
    have htick : stepTick p (envTurn s) = .next { envTurn s with now := s.now + 1 } :=
      (stepTick_not_due (not_due_of_untimed hidle)).trans (congrArg _ (passTime_of_untimed hidle))
    rw [hostWait, htick, andThen_next]
    exact ih h

theorem Beside.waitMs {n : Nat} (h : Beside g s l) : Beside g (waitMs n s) (waitMs n l) := by
  have hs : Machine.waitMs n s = onto s (Machine.waitMs n l) := by rw [← waitMs_onto, h.link]
  have hl : (Machine.waitMs n l).connOpen = l.connOpen := (congrArg State.connOpen (waitMs_onto n l l) :)
  rw [hs]
  exact ⟨h.idle, h.agenda, h.connOpen.trans hl.symm, rfl⟩

theorem Beside.reportBack {rep : Report} (h : Beside g s l) (hr : Reportable rep) :
    Reports g (rep, l) (reportBack rep s) :=
  ⟨_, rfl, rfl, ⟨h.idle, h.agenda, h.connOpen, congrArg (giveBack (.report rep)) h.link⟩, hr⟩

end

theorem hostPayload_length (pay : List Byte) : (hostPayload pay).length ≤ 240 :=
  List.length_take_le _ _

-- The cases of `try`.

section
variable {p : Params} {code : Code} {a : Addr} {pay : List Byte} {l t : State}

theorem tryExecute_of_ok {r : Response} (h : sequentialExecute p code a (hostPayload pay) l = (.ok r, t)) :
    tryExecute p code a pay l = .ok (r, t) := by
  rw [tryExecute, h]

theorem tryExecute_of_err {e : ErrorKind} (h : sequentialExecute p code a (hostPayload pay) l = (.err e, t)) :
    tryExecute p code a pay l = .error (.engineError e, t) := by
  rw [tryExecute, h]

end

-- The parts of the program that come before a rest of it, by the transaction each begins with.

section
variable {p : Params} {a : Addr} {i : Fin 4} {is : List (Fin 4)} {on : Bool} {prog : State → TestPart State} {l : State}

theorem setChannel_bind : (setChannel p a i on l).bind prog =
    (tryExecute p .setOutput a (p.paySetOutput i.val on) l).bind fun x => prog x.2 :=
  bind_map_left (m := Except (Report × State)) Prod.snd (tryExecute p .setOutput a (p.paySetOutput i.val on) l) prog

theorem allOff_cons_bind : (allOff p a (i :: is) l).bind prog =
    (setChannel p a i false l).bind fun t => (allOff p a is t).bind prog :=
  bind_assoc (m := Except (Report × State)) (setChannel p a i false l) (allOff p a is) prog

/-- The test of a reply's first payload byte (R121, R122). -/
def verdict (step : StepId) (e : Byte) (x : Response × State) : TestPart State :=
  if byteAt x.1.payload 0 = e then .ok x.2 else .error (.verificationFailure step e (byteAt x.1.payload 0), x.2)

theorem verifyInput_bind {step : StepId} {e : Byte} : (verifyInput p a step e l).bind prog =
    (tryExecute p .readInput a [] l).bind fun x => (verdict step e x).bind prog :=
  bind_assoc (m := Except (Report × State)) (tryExecute p .readInput a [] l) (verdict step e) prog

end

section
variable {p : Params} {g : List Byte} {a : Addr} {k : State → Out} {prog : State → TestPart State}

theorem refines_success : Refines g (reportBack .success) .ok := fun _ _ h => h.reportBack (.inl rfl)

theorem Refines.wait {n : Nat} (hk : Refines g k prog) :
    Refines g (fun s => andThen (hostWait p n s) k) (fun l => prog (waitMs n l)) := by
  intro s l h
  show Reports g (ending (prog (waitMs n l))) (andThen (hostWait p n s) k)
  rw [hostWait_eq_waitMs h.idle, andThen_next]
  exact hk _ _ h.waitMs

variable (hpos : 0 < p.tPoll)
include hpos

theorem Refines.tryCall {code : Code} {pay : List Byte} {k : Response → State → Out}
    {prog : Response × State → TestPart State} (hk : ∀ r, Refines g (k r) fun t => prog (r, t)) :
    Refines g (tryCall p code a (hostPayload pay) k) (fun l => (tryExecute p code a pay l).bind prog) := by
  intro s l h
  show Reports g (ending ((tryExecute p code a pay l).bind prog)) (Machine.tryCall p code a (hostPayload pay) k s)
  obtain ⟨t, hcall, ht⟩ := h.call (code := code) (a := a) hpos (hostPayload_length pay)
  rw [Machine.tryCall, hcall, andThen_next]
  rcases hx : sequentialExecute p code a (hostPayload pay) l with ⟨r | e, u⟩ <;> rw [hx] at ht
  · rw [tryExecute_of_ok hx]
    exact hk r t u ht
  · rw [tryExecute_of_err hx]
    exact ht.reportBack (.inr (.inl ⟨e, rfl⟩))

theorem Refines.setOutput {i : Fin 4} {on : Bool} (hk : Refines g k prog) :
    Refines g (trySetOutput p a i on k) (fun l => (setChannel p a i on l).bind prog) := by
  simp only [setChannel_bind]
  exact Refines.tryCall hpos fun _ => hk

theorem Refines.checkInput {step : StepId} {e : Byte}
    (hfail : ∀ x, x ≠ e → Reportable (.verificationFailure step e x)) (hk : Refines g k prog) :
    Refines g (checkInput p a step e k) (fun l => (verifyInput p a step e l).bind prog) := by
  simp only [verifyInput_bind]
  refine Refines.tryCall (pay := []) hpos fun r s l h => ?_
  show Reports g (ending ((verdict step e (r, l)).bind prog))
    (if byteAt r.payload 0 = e then k s else reportBack (.verificationFailure step e (byteAt r.payload 0)) s)
  by_cases he : byteAt r.payload 0 = e
  · rw [if_pos he, verdict, if_pos he]
    exact hk s l h
  · rw [if_neg he, verdict, if_neg he]
    exact h.reportBack (hfail _ he)

theorem Refines.zeroOutputs {is : List (Fin 4)} (hk : Refines g k prog) :
    Refines g (zeroOutputs p a is k) (fun l => (allOff p a is l).bind prog) := by
  induction is with
  | nil => exact hk
  | cons i is ih =>
    simp only [allOff_cons_bind]
    exact Refines.setOutput hpos ih

theorem Refines.toggleChannels {is : List (Fin 4)} :
    Refines g (toggleChannels p a is (reportBack .success)) (toggleInTurn p a is) := by
  induction is with
  | nil => exact refines_success
  | cons i is ih =>
    have hoff := Refines.setOutput (a := a) (i := i) (on := false) hpos (ih.wait (p := p) (n := p.tRelay))
    have hcheck := Refines.checkInput (a := a) hpos (reportable_channel i) hoff
    exact Refines.setOutput hpos hcheck.wait

/-- The acceptance test, beside the program of R126. -/
theorem acceptanceTest_refines {s l : State} (h : Beside g s l) :
    Reports g (sequentialAcceptanceTest p a l) (acceptanceTest p a s) :=
  Refines.tryCall hpos (fun _ => Refines.zeroOutputs hpos
    (Refines.checkInput hpos reportable_initialCheck (Refines.toggleChannels hpos))) s l h

end

theorem sequentialAcceptanceTest_of_closed {p : Params} {a : Addr} {s : State} (hc : s.connOpen = false) :
    sequentialAcceptanceTest p a s = (.engineError .noConnection, s) := by
  have hexec : sequentialExecute p .setAddress a (hostPayload (p.paySetAddress a)) s = (.err .noConnection, s) :=
    if_neg (by simp [hc])
  rw [sequentialAcceptanceTest, tryExecute_of_err hexec]
  rfl

theorem acceptanceTest_of_not_idle {p : Params} {a : Addr} {s : State} (hp : s.phase ≠ .idle) :
    acceptanceTest p a s = .fault .requestOutsideIdle := by
  rw [acceptanceTest, tryCall, call_of_not_idle hp, andThen_fault]

/-- Settles O52: from `IDLE` the test runs beside the program, from the same state on. -/
theorem acceptanceTestReports : Obligations.AcceptanceTestReports := by
  refine fun a s => ⟨fun hp => ?_, acceptanceTest_of_not_idle⟩
  obtain ⟨t, ht, hret, hend, hrep⟩ :=
    acceptanceTest_refines (p := Config.params) (a := a) (by decide) ⟨hp, rfl, rfl, onto_self s⟩
  obtain ⟨hrxq, htxq, hnow, hdraws, hturns, hfree⟩ := hend.link_eq
  refine ⟨_, t, ht, hret, hend.idle, hend.agenda, (steady_connOpen _ s.connOpen).acceptanceTest a s t rfl ht,
    ⟨rfl, hrxq, htxq, hnow, hdraws, hturns, hfree⟩, fun hc => ?_, hrep⟩
  rw [hrxq, htxq, hnow, sequentialAcceptanceTest_of_closed hc]
  exact ⟨rfl, rfl, rfl, rfl⟩

end Sys2Proof.Machine
end

section
/-! How long a successful acceptance test takes (O53): each transaction that answers with a response waits for the
settle time, each toggle of a channel waits twice for the relay, and the parts add up along R126. -/
namespace Sys2Proof.Machine

-- A transaction with a response waited for the settle time.

section
variable {p : Params} {n k d : Nat} {code : Code} {dst : Addr} {pay : List Byte} {s t : State} {r : Response}

theorem pollLoop_now_ge : s.now ≤ (pollLoop p n k d s).2.now := by
  induction k generalizing d s with
  | zero => exact le_rfl
  | succ k ih =>
    obtain h | ⟨-, h⟩ := pollLoop_succ_cases (p := p) (n := n) (k := k) (d := d) (s := s)
    · exact h.ge
    · have hrest := ih (d := d + p.tPoll) (s := waitMs p.tPoll (linkAvail (envTurn s)).2)
      rw [waitMs_now, linkAvail_now, envTurn_now] at hrest
      rw [h]
      exact (Nat.le_add_right _ _).trans hrest

theorem writeAndPoll_now_ge (f : List Byte) : s.now ≤ (writeAndPoll p n f s).2.now := by
  unfold writeAndPoll
  split
  · exact pollLoop_now_ge (s := (linkWrite f s).2)
  · exact le_rfl

/-- The procedure answers with a response only on an open connection, where it waits before it writes (R99). -/
theorem sequentialExecute_ok_now_ge (h : (sequentialExecute p code dst pay s).1 = .ok r) :
    s.now + p.tSettle ≤ (sequentialExecute p code dst pay s).2.now := by
  unfold sequentialExecute at h ⊢
  split at h
  next hc =>
    rw [if_pos hc]
    refine le_trans ?_ (writeAndPoll_now_ge _)
    rw [envTurn_now, envTurn_now, waitMs_now, linkFlush_now]
  next => cases h

theorem call_ok_now_ge (hpos : 0 < p.tPoll) (e : call p code dst pay s = .next (.ok r, t)) :
    s.now + p.tSettle ≤ t.now := by
  obtain ⟨hp, hl⟩ := call_next e
  obtain ⟨u, hcall, hnow⟩ := call_result_now (code := code) (dst := dst) hpos hp hl
  rw [e] at hcall
  obtain ⟨hres, rfl⟩ : .ok r = (sequentialExecute p code dst pay s).1 ∧ t = u := by simpa using hcall
  exact hnow ▸ sequentialExecute_ok_now_ge hres.symm

/-- The host's wait takes its time, and leaves the last result. -/
theorem hostWait_next (e : hostWait p n s = .next t) : t.now = s.now + n ∧ t.resKind = s.resKind := by
  induction n generalizing s with
  | zero =>
    cases e
    exact ⟨rfl, rfl⟩
  | succ n ih =>
    obtain ⟨u, hu, e⟩ := andThen_eq_next.mp e
    obtain ⟨-, rfl⟩ := stepTick_next hu
    obtain ⟨hnow, hres⟩ := ih e
    exact ⟨hnow.trans (Nat.succ_add_eq_add_succ s.now n), hres⟩

end

/-- An operation that ends in the report of success, begun in `s`, took at least `d` milliseconds and leaves a last
result that is OK. -/
def SuccessAfter (d : Nat) (s : State) (o : Out) : Prop :=
  ∀ t, o = .next t → t.returned = .report .success → s.now + d ≤ t.now ∧ t.resKind = .ok

/-- A rest of the acceptance test, entered after a result that is OK, takes at least `d` milliseconds to succeed. -/
def SuccessTakes (d : Nat) (k : State → Out) : Prop := ∀ s, s.resKind = .ok → SuccessAfter d s (k s)

theorem successTakes_reportBack (rep : Report) : SuccessTakes 0 (reportBack rep) := by
  rintro s hs t ⟨⟩ -
  exact ⟨le_rfl, hs⟩

section
variable {p : Params} {a : Addr} {d : Nat} {k : State → Out}

/-- A test that ends with another report has nothing to show. -/
theorem successAfter_reportBack_of_ne {rep : Report} {s u : State} (h : rep ≠ .success) :
    SuccessAfter d s (reportBack rep u) := by
  rintro t ⟨⟩ ht
  exact absurd (OpValue.report.inj ht) h

theorem SuccessTakes.wait (n : Nat) (hk : SuccessTakes d k) :
    SuccessTakes (n + d) (fun s => andThen (hostWait p n s) k) := by
  intro s hs t e ht
  obtain ⟨u, hu, e⟩ := andThen_eq_next.mp e
  obtain ⟨hnow, hres⟩ := hostWait_next hu
  obtain ⟨htime, hok⟩ := hk u (hres.trans hs) t e ht
  exact ⟨by omega, hok⟩

variable (hpos : 0 < p.tPoll)
include hpos

/-- A transaction that the test goes on from has a response, so it waited for the settle time, and its result is OK
whatever the one before it was. -/
theorem successAfter_tryCall {code : Code} {pay : List Byte} {k : Response → State → Out}
    (hk : ∀ r, SuccessTakes d (k r)) (s : State) : SuccessAfter (p.tSettle + d) s (tryCall p code a pay k s) := by
  intro t e ht
  obtain ⟨⟨x, u⟩, hx, e⟩ := andThen_eq_next.mp e
  cases x with
  | ok r =>
    have hsettle := call_ok_now_ge hpos hx
    obtain ⟨-, hres, -⟩ := call_ok hx rfl
    obtain ⟨htime, hok⟩ := hk r u hres t e ht
    exact ⟨by omega, hok⟩
  | err err => exact successAfter_reportBack_of_ne (rep := .engineError err) nofun t e ht

theorem SuccessTakes.setOutput {i : Fin 4} {on : Bool} (hk : SuccessTakes d k) :
    SuccessTakes (p.tSettle + d) (trySetOutput p a i on k) :=
  fun s _ => successAfter_tryCall hpos (fun _ => hk) s

/-- A check that fails does not report success. -/
theorem SuccessTakes.checkInput {step : StepId} {expected : Byte} (hk : SuccessTakes d k) :
    SuccessTakes (p.tSettle + d) (checkInput p a step expected k) := by
  refine fun s _ => successAfter_tryCall hpos (fun r u hu => ?_) s
  split
  · exact hk u hu
  · exact successAfter_reportBack_of_ne nofun

theorem SuccessTakes.zeroOutputs {is : List (Fin 4)} (hk : SuccessTakes d k) :
    SuccessTakes (is.length * p.tSettle + d) (zeroOutputs p a is k) := by
  induction is with
  | nil =>
    rw [List.length_nil, Nat.zero_mul, Nat.zero_add]
    exact hk
  | cons i is ih =>
    have hsum : (i :: is).length * p.tSettle + d = p.tSettle + (is.length * p.tSettle + d) := by
      rw [List.length_cons]; ring
    exact hsum ▸ ih.setOutput hpos

/-- A channel is turned on, checked and turned off, with a wait for the relay after each turn (R122). -/
theorem SuccessTakes.toggleChannel {i : Fin 4} (hk : SuccessTakes d k) :
    SuccessTakes (3 * p.tSettle + 2 * p.tRelay + d) (toggleChannel p a i k) := by
  have hparts : 3 * p.tSettle + 2 * p.tRelay + d =
      p.tSettle + (p.tRelay + (p.tSettle + (p.tSettle + (p.tRelay + d)))) := by ring
  exact hparts ▸ ((((hk.wait p.tRelay).setOutput hpos).checkInput hpos).wait p.tRelay).setOutput hpos

theorem SuccessTakes.toggleChannels {is : List (Fin 4)} (hk : SuccessTakes d k) :
    SuccessTakes (is.length * (3 * p.tSettle + 2 * p.tRelay) + d) (toggleChannels p a is k) := by
  induction is with
  | nil =>
    rw [List.length_nil, Nat.zero_mul, Nat.zero_add]
    exact hk
  | cons i is ih =>
    have hsum : (i :: is).length * (3 * p.tSettle + 2 * p.tRelay) + d =
        3 * p.tSettle + 2 * p.tRelay + (is.length * (3 * p.tSettle + 2 * p.tRelay) + d) := by
      rw [List.length_cons]; ring
    exact hsum ▸ ih.toggleChannel hpos

/-- The whole test: the address, the four channels off, the initial check, and the four channels in turn (R126). -/
theorem successAfter_acceptanceTest (s : State) :
    SuccessAfter (18 * p.tSettle + 8 * p.tRelay) s (acceptanceTest p a s) := by
  have hparts : 18 * p.tSettle + 8 * p.tRelay = p.tSettle + (channels.length * p.tSettle +
      (p.tSettle + (channels.length * (3 * p.tSettle + 2 * p.tRelay) + 0))) := by
    simp only [channels, List.length_cons, List.length_nil]; ring
  have htoggle := (successTakes_reportBack .success).toggleChannels (a := a) (is := channels) hpos
  exact hparts ▸ successAfter_tryCall hpos (fun _ => (htoggle.checkInput hpos).zeroOutputs hpos) s

end

/-- Settles O53: the row is the procedure by definition, whose 18 transactions and 8 waits `successAfter_acceptanceTest`
adds up. -/
theorem acceptanceSuccessTakesItsTime : Obligations.AcceptanceSuccessTakesItsTime :=
  ⟨fun _ _ => rfl, fun _ _ s t hpos e ht => successAfter_acceptanceTest hpos s t e ht⟩

end Sys2Proof.Machine
end

section
/-! The error of an engine step (O37): what it leaves in the result registers is `EngineStep.result_cases`, and what no
engine step writes is `EngineStep.frame`; left are the registers a step writes only while its transaction goes on. -/
namespace Sys2Proof.Machine

/-- What the transmission and the waits are held in (R25, R26), and the value last given back. -/
def sendingRegs (s : State) : Nat × Nat × Nat × List Byte × BitVec 8 × OpValue :=
  (s.tmr, s.elapsed, s.pollTmr, s.txBuf, s.txLen, s.returned)

theorem sendingRegs_eq_iff {s t : State} : sendingRegs t = sendingRegs s ↔
    t.tmr = s.tmr ∧ t.elapsed = s.elapsed ∧ t.pollTmr = s.pollTmr ∧ t.txBuf = s.txBuf ∧ t.txLen = s.txLen ∧
      t.returned = s.returned := by
  simp [sendingRegs]

theorem sendingRegs_linkRead (n : Nat) (s : State) : sendingRegs (linkRead n s).2 = sendingRegs s := by
  unfold linkRead; split <;> rfl

/-- An engine step that ends its transaction, in a response or in an error, leaves `sendingRegs` (R133). -/
theorem EngineStep.sendingRegs_eq {p : Params} {i : Instr} {s t : State} (h : EngineStep p i s t)
    (hd : t.phase = .done) : sendingRegs t = sendingRegs s := by
  cases h with
  | settleDone e =>
    obtain ⟨-, -, f, -, rfl⟩ := stepSettleDone_next e
    simp at hd
  | write e =>
    obtain ⟨-, ⟨-, rfl⟩ | ⟨-, rfl⟩⟩ := stepWrite_next e
    · simp at hd
    · rfl
  | poll e =>
    obtain ⟨hp, -, rfl⟩ := stepPoll_next e
    obtain ⟨-, a⟩ | ⟨_, -, -, a⟩ | ⟨_, -, -, -, a⟩ | ⟨_, -, -, -, a⟩ :=
      afterAvail_cases p (linkAvail s).1 (linkAvail s).2 <;> rw [a] at hd ⊢
    · rfl
    · simp at hd
    · rfl
    · simp [linkAvail, hp] at hd
  | read e =>
    obtain ⟨-, rfl⟩ := stepRead_next e
    have hr := sendingRegs_linkRead s.expLen.toNat s
    obtain ⟨-, a⟩ | ⟨_, -, -, a⟩ | ⟨_, -, -, -, a⟩ | ⟨_, _, -, -, -, a⟩ :=
      afterRead_cases p (linkRead s.expLen.toNat s).1 (linkRead s.expLen.toNat s).2 <;> rw [a] <;> exact hr

/-- Settles O37: the three rows are engine steps, and one that ends its transaction without `OK` ends it in an error. -/
theorem errorsAreEnteredByResultAndPhaseAlone : Obligations.ErrorsAreEnteredByResultAndPhaseAlone := by
  intro i s t hi e hd hok
  have h : EngineStep Config.params i s t := by
    obtain rfl | rfl | rfl := hi
    · exact .write e
    · exact .poll e
    · exact .read e
  obtain ⟨hreq, hconn, hnow⟩ := h.frame
  obtain ⟨hcode, hdst, hlen, hpay, hexp⟩ := requestRegs_eq_iff.mp hreq
  obtain ⟨htmr, helapsed, hpoll, htxBuf, htxLen, hret⟩ := sendingRegs_eq_iff.mp (h.sendingRegs_eq hd)
  obtain ⟨hgo, -⟩ | ⟨-, hkind, hcount, hrsp⟩ | ⟨-, -, hk, -⟩ := h.result_cases
  · exact absurd hd hgo
  · exact ⟨hkind, hcount, hrsp, hcode, hdst, hlen, hpay, hexp, htmr, helapsed, hpoll, htxBuf, htxLen, hconn, hnow, hret⟩
  · exact absurd hk hok

end Sys2Proof.Machine
end
